-- ==== Sys2Proof/Word.lean ====
section
/-! DEFINITION. The plain words of the NK2410: bytes, tags, blocks, channels, lanes. -/

namespace Sys2Proof

/-- One byte of a record or of a block (R1, R173). -/
abbrev Byte := BitVec 8

/-- The tag that pairs a reply with its request, 0..65535 (R177). -/
abbrev Tag := BitVec 16

/-- A 32-bit word: a CRC-32, a command number, a fill pattern, a monitor's count. -/
abbrev Word32 := BitVec 32

/-- One block of 4096 bytes, opaque to the part (R1). Byte 0 is the most significant byte of the word. -/
abbrev Block := BitVec 32768

/-- One of the sixteen member channels, 0..15. -/
abbrev Chan := Fin 16

/-- One of the four rebuild lanes, 0..3. -/
abbrev Lane := Fin 4

/-- The XOR of two blocks, byte by byte (R1). -/
def Block.xor (a b : Block) : Block := a ^^^ b

end Sys2Proof
end

