-- ==== Sys2Proof/Machine/Vocab.lean ====
section
/-! DEFINITION. The names of the manual as types: the fields that requests carry, and the codes of states, causes, marks, events and
notices. -/

namespace Sys2Proof

/-- The rebuild class of an extent (section 4.2). -/
inductive ExtClass where
  | first | normal | last | hold
deriving DecidableEq, Repr

/-- The class by which the sender orders a notice kind (R182). -/
inductive NoticeClass where
  | urgent | routine
deriving DecidableEq, Repr

/-- The thirteen notice kinds (R181). -/
inductive NoticeKind where
  | ready | memberFailed | memberError | lateCompletion | stripLost | lossLimit | lossCleared | sessionState
  | extentDone | holdWaiting | rateChanged | monitorOverflow | linkError
deriving DecidableEq, Repr

/-- The nine events that activity monitors may count (R167). -/
inductive EventKind where
  | fgArrived | fgLate | fgLockWait | fgReconstruct | bufferWait | rebuildStripeDone | stripLost | memberRetry
  | memberTimeout
deriving DecidableEq, Repr

/-- A monitor's filter (R166). -/
inductive Filter where
  | always | whileRunning
deriving DecidableEq, Repr

/-- A monitor's action on overflow (R170). -/
inductive Action where
  | nothing | notice | govern | both
deriving DecidableEq, Repr

/-- The mark of a checkpoint record (R153). -/
inductive Mark where
  | running | paused | lossStop | complete | halted | abandoned
deriving DecidableEq, Repr

/-- The two slots of the checkpoint area (R10). -/
inductive CkptSlot where
  | a | b
deriving DecidableEq, Repr

/-- The cause of a lost range (R81). -/
inductive LossCause where
  | medium | timeout
deriving DecidableEq, Repr

/-- The cause of a FAILED declaration (R144). -/
inductive FailCause where
  | errors | write | report | link | lossFull
deriving DecidableEq, Repr

/-- The last reset cause (R183). -/
inductive ResetCause where
  | power | command
deriving DecidableEq, Repr

/-- The PAUSING cause (section 3.1). -/
inductive PauseCause where
  | request | loss
deriving DecidableEq, Repr

/-- The HALTED reason (section 3.1). -/
inductive HaltReason where
  | secondMember | memberAfterComplete
deriving DecidableEq, Repr

/-- The reason a LINK-ERROR carries (R175). -/
inductive LinkErrorReason where
  | length | check
deriving DecidableEq, Repr

/-- The lock modes (R98). -/
inductive LockMode where
  | shared | rebuild | exclusive
deriving DecidableEq, Repr

/-- The name of an operation that takes locks and buffers: a foreground request's tag or a lane's number (R98). -/
inductive OpName where
  | fg (tag : Tag)
  | lane (l : Lane)
deriving DecidableEq, Repr

/-- The eleven session states, with what is present in one state only: the closing mark in RUNNING, the PAUSING cause, the
HALTED reason (section 3.1). -/
inductive SessionState where
  | idle | starting | restoring
  | running (closing : Bool)
  | pausing (cause : PauseCause)
  | paused | lossStop | draining | complete
  | halted (reason : HaltReason)
  | targetFailed
deriving DecidableEq, Repr

/-- The fields of an ARRAY group as STAGE-ARRAY carries them (R17). The epoch is a plain number so that its range check can be said. -/
structure ArrayGroup where
  members : Nat
  stripKiB : Nat
  stripes : Nat
  extentSize : Nat
  failedSlot : Nat
  slotMap : List Nat
  spare : Nat
  epoch : Nat
  fill : Word32
deriving DecidableEq, Repr

/-- A POLICY group in force or staged (section 2.3); the per-kind entries stand in the order of `NoticeKind.index`. -/
structure PolicyGroup where
  retryLimit : Nat
  errorLimit : Nat
  timeoutMs : Nat
  latencyMs : Nat
  lossLimit : Nat
  periodS : Nat
  ceiling : Nat
  quietS : Nat
  classes : Vector NoticeClass 13
  silences : Vector Bool 13
deriving DecidableEq, Repr

/-- The fields STAGE-POLICY carries, before the range check of R18. `none` stands for a value that is no coded value of the field. -/
structure PolicyFields where
  retryLimit : Nat
  errorLimit : Nat
  timeoutMs : Nat
  latencyMs : Nat
  lossLimit : Nat
  periodS : Nat
  ceiling : Nat
  quietS : Nat
  classes : Vector (Option NoticeClass) 13
  silences : Vector (Option Bool) 13
deriving DecidableEq, Repr

/-- A window, staged or active (R19). Base and mask are the twelve bits of an extent index (R59). -/
structure Window where
  enable : Bool
  base : BitVec 12
  mask : BitVec 12
  cls : ExtClass
deriving DecidableEq, Repr

/-- The fields STAGE-WINDOW carries, before the checks of R19. -/
structure WindowFields where
  index : Nat
  enable : Option Bool
  base : Nat
  mask : Nat
  cls : Option ExtClass
deriving DecidableEq, Repr

/-- The groups a COMMIT names (R21). -/
structure Groups where
  array : Bool
  policy : Bool
  windows : Bool
deriving DecidableEq, Repr

/-- A first index and a count, as QUERY EXTENTS and QUERY LOSSES carry them (R75, R152). -/
structure IndexSpan where
  first : Nat
  count : Nat
deriving DecidableEq, Repr

/-- The fields SET-MONITOR carries, before the checks of R171. -/
structure MonitorFields where
  number : Nat
  event : Option EventKind
  mask : Nat
  filter : Option Filter
  action : Option Action
  enable : Option Bool
  count : Nat
deriving DecidableEq, Repr

/-- The body of READ-BLOCKS (section 11.1). -/
structure RunFields where
  lba : BitVec 64
  count : BitVec 16
deriving DecidableEq, Repr

/-- The body of WRITE-BLOCKS (section 11.1). -/
structure WriteFields where
  lba : BitVec 64
  count : BitVec 16
  blocks : List Block
deriving DecidableEq, Repr

/-- The status of a completion as the adapter sends it (R135). `firstBad` is a member block number. -/
inductive StripStatus where
  | good (blocks : List Block)
  | medium (firstBad badCount : Nat) (blocks : List Block)
  | rejected
  | linkDown
deriving DecidableEq, Repr

/-- The subject of a QUERY with its arguments (R179). -/
inductive QuerySubject where
  | session | plan
  | extents (span : IndexSpan)
  | losses (span : IndexSpan)
  | channels | rate | monitors
deriving DecidableEq, Repr

/-- A request record as dispatch takes it (R178). A body is `none` when it does not parse for its type (R176, check 4). -/
inductive Request where
  | identify (body : Option Unit)
  | reset
  | stageArray (body : Option ArrayGroup)
  | stagePolicy (body : Option PolicyFields)
  | stageWindow (body : Option WindowFields)
  | commit (body : Option Groups)
  | querySession (body : Option Unit)
  | queryPlan (body : Option Unit)
  | queryExtents (body : Option IndexSpan)
  | queryLosses (body : Option IndexSpan)
  | queryChannels (body : Option Unit)
  | queryRate (body : Option Unit)
  | queryMonitors (body : Option Unit)
  | queryUnknown
  | start (body : Option Unit)
  | restore (body : Option Unit)
  | pause (body : Option Unit)
  | continueSession (body : Option Unit)
  | abort (body : Option Unit)
  | release (body : Option Unit)
  | setRate (body : Option Nat)
  | setMonitor (body : Option MonitorFields)
  | readBlocks (body : Option RunFields)
  | writeBlocks (body : Option WriteFields)
  | unknown (type : Byte)
deriving DecidableEq, Repr

end Sys2Proof
end

