-- ==== Sys2Proof/Syntax.lean ====
section
/-! DEFINITION. The commands of the NK2410: one constructor for each row of spec/opcode_table.json, in the table's order. -/

namespace Sys2Proof

/-- One command: something that comes to the part from outside (a reset, a record on the control link, a record on a strip link, the
expiry of a timer, the end of a sent record) or the moment at which one block takes what another block has handed it. A request's
`body` is `none` when it does not parse for its type (R176). -/
inductive Instr where
  /-- POWER_ON_RESET (R185). -/
  | powerOnReset
  /-- RESET: the request, whatever its tag and body (R176, R185). -/
  | reset (tag : Tag)
  /-- IDENTIFY (R184). -/
  | identify (tag : Tag) (body : Option Unit)
  /-- STAGE_ARRAY (R17). -/
  | stageArray (tag : Tag) (body : Option ArrayGroup)
  /-- STAGE_POLICY (R18). -/
  | stagePolicy (tag : Tag) (body : Option PolicyFields)
  /-- STAGE_WINDOW (R19). -/
  | stageWindow (tag : Tag) (body : Option WindowFields)
  /-- COMMIT (R21). -/
  | commit (tag : Tag) (body : Option Groups)
  /-- QUERY_SESSION (R54). -/
  | querySession (tag : Tag) (body : Option Unit)
  /-- QUERY_PLAN (R31). -/
  | queryPlan (tag : Tag) (body : Option Unit)
  /-- QUERY_EXTENTS (R75). -/
  | queryExtents (tag : Tag) (body : Option IndexSpan)
  /-- QUERY_LOSSES (R152). -/
  | queryLosses (tag : Tag) (body : Option IndexSpan)
  /-- QUERY_CHANNELS (R147). -/
  | queryChannels (tag : Tag) (body : Option Unit)
  /-- QUERY_RATE (R95). -/
  | queryRate (tag : Tag) (body : Option Unit)
  /-- QUERY_MONITORS (R172). -/
  | queryMonitors (tag : Tag) (body : Option Unit)
  /-- START (R35). -/
  | start (tag : Tag) (body : Option Unit)
  /-- RESTORE (R38). -/
  | restore (tag : Tag) (body : Option Unit)
  /-- PAUSE (R41). -/
  | pause (tag : Tag) (body : Option Unit)
  /-- CONTINUE (R44). -/
  | continueSession (tag : Tag) (body : Option Unit)
  /-- ABORT (R46). -/
  | abort (tag : Tag) (body : Option Unit)
  /-- RELEASE (R51). -/
  | release (tag : Tag) (body : Option Unit)
  /-- SET_RATE (R90). -/
  | setRate (tag : Tag) (body : Option Nat)
  /-- SET_MONITOR (R171). -/
  | setMonitor (tag : Tag) (body : Option MonitorFields)
  /-- READ_BLOCKS (R115). -/
  | readBlocks (tag : Tag) (body : Option RunFields)
  /-- WRITE_BLOCKS (R115). -/
  | writeBlocks (tag : Tag) (body : Option WriteFields)
  /-- UNKNOWN_TYPE_RECORD: a record with a right check whose type is no request type (R176). -/
  | unknownTypeRecord (type : Byte) (tag : Tag)
  /-- LINK_ERROR: bytes on the control link that hold a frame with an impossible length or a wrong check (R175). -/
  | linkError (bytes : List Byte)
  /-- HELD_RECORD_DISPATCH (R176). -/
  | heldRecordDispatch
  /-- RECORD_SENT (R182). -/
  | recordSent
  /-- STRIP_COMPLETION: a completion the adapter of a channel sent (R139). -/
  | stripCompletion (chan : Chan) (number : Word32) (status : StripStatus)
  /-- LINK_DOWN: a link-down indication (R143). -/
  | linkDown (chan : Chan)
  /-- LINK_UP: a link-up indication (R143). -/
  | linkUp (chan : Chan)
  /-- COMMAND_TIMEOUT: the timer of an issued command expires (R138). -/
  | commandTimeout (chan : Chan) (number : Word32)
  /-- COMMAND_ISSUE: a pending command of a channel is issued (R137). -/
  | commandIssue (chan : Chan)
  /-- CHANNEL_FAILED_TOLD: the session controller takes a channel's FAILED declaration (R48). -/
  | channelFailedTold (chan : Chan)
  /-- CLAIM: the extent table takes a lane's claim (R62). -/
  | claim (lane : Lane)
  /-- CLAIM_ANSWER: the lane engine takes a claim's answer (R87). -/
  | claimAnswer (lane : Lane)
  /-- LOCK_GRANT: an operation takes a grant made by FIFO service (R101). -/
  | lockGrant (op : OpName)
  /-- BUFFER_RESERVATION: an operation takes its reservation (R107). -/
  | bufferReservation (op : OpName)
  /-- LANE_READ_COMPLETION: a lane takes the ending of its survivor read on a channel (R80). -/
  | laneReadCompletion (lane : Lane) (chan : Chan)
  /-- LANE_WRITE_COMPLETION: a lane takes the ending of its spare write (R84). -/
  | laneWriteCompletion (lane : Lane)
  /-- FG_READ_COMPLETION: a foreground operation takes the ending of its read on a channel (R118). -/
  | fgReadCompletion (tag : Tag) (chan : Chan)
  /-- FG_WRITE_COMPLETION: a foreground write takes the ending of its write on a channel (R128). -/
  | fgWriteCompletion (tag : Tag) (chan : Chan)
  /-- CHECKPOINT_TRIGGER: the checkpoint writer takes a trigger an extent's end handed it (R160). -/
  | checkpointTrigger
  /-- PERIOD_TIMER_EXPIRY (R159). -/
  | periodTimerExpiry
  /-- CHECKPOINT_WRITE_COMPLETION (R157). -/
  | checkpointWriteCompletion
  /-- CHECKPOINT_READ_COMPLETION (R163). -/
  | checkpointReadCompletion
  /-- DRAIN_END: the session controller judges the drain conditions (R47). -/
  | drainEnd
  /-- GOVERN_SIGNAL: the rate governor takes a monitor's signal (R93). -/
  | governSignal
  /-- QUIET_TIMER_EXPIRY (R94). -/
  | quietTimerExpiry
deriving DecidableEq, Repr

end Sys2Proof
end

