-- ==== Sys2Proof/Decode.lean ====
section
/-! DEFINITION. The commands that words spell. No row of spec/opcode_table.json gives a command bits: a command is something that comes to
the part, and its fields are the constructor's. -/

namespace Sys2Proof

/-- The command that a word spells by the table's bits: none, for the table gives no row any. -/
def decodeTableWord (_nbits _w : Nat) : Option Instr := none

end Sys2Proof
end

