-- ==== Sys2Proof/Machine/State.lean ====
section
/-! DEFINITION. The state of the NK2410, block by block (section 3.1 of the scope file), and the state after a power-on reset. -/

namespace Sys2Proof.Machine
open Sys2Proof

/-! ## Plan store -/

/-- The staged and the active plan (R16, R20). -/
structure PlanStore where
  stagedValid : Bool
  stagedArray : ArrayGroup
  stagedPolicy : PolicyGroup
  stagedWindows : Vector Window 8
  array : Option ArrayGroup
  policy : PolicyGroup
  windows : Vector Window 8
deriving DecidableEq, Repr

/-! ## Session controller -/

/-- The kinds of long control operation (section 3.1). -/
inductive LongKind where
  | start | restore | pause | abort
deriving DecidableEq, Repr

/-- The long control operation in flight, with the tag of its request (R34). -/
structure LongOp where
  kind : LongKind
  tag : Tag
deriving DecidableEq, Repr

/-- The session controller's state (section 3.1). -/
structure SessionCtl where
  state : SessionState
  longOp : Option LongOp
deriving DecidableEq, Repr

/-! ## Extent table -/

/-- The state of an extent, with the cursor and the lane where they are present (R56). -/
inductive ExtentState where
  | pending
  | active (cursor : Nat) (lane : Lane)
  | partDone (cursor : Nat)
  | done
deriving DecidableEq, Repr

/-- An extent record (R56). -/
structure ExtentRec where
  state : ExtentState
  cls : ExtClass
deriving DecidableEq, Repr

/-- The extent table (R56). The record of extent `x` stands at position `x`; the list is empty while the table holds no records. -/
structure ExtentTable where
  extents : List ExtentRec
  ahead : List Nat
  holdWaiting : Bool
deriving DecidableEq, Repr

/-! ## Lane engine -/

/-- The states of a lane (R76). -/
inductive LaneState where
  | parked | claiming | lockWait | bufferWait | reading | writing
deriving DecidableEq, Repr

/-- The outcome of one survivor read of a lane (R76). -/
inductive ReadOutcome where
  | outstanding | good | lost
deriving DecidableEq, Repr

/-- One survivor read of a lane (R76). -/
structure LaneRead where
  chan : Chan
  attempts : Nat
  outcome : ReadOutcome
deriving DecidableEq, Repr

/-- One lost range of a lane's stripe (R76, R81). -/
structure LostRange where
  chan : Chan
  first : Nat
  count : Nat
  cause : LossCause
deriving DecidableEq, Repr

/-- A lane record (R76), with the contents of the buffer in which the XOR is accumulated (R79). -/
structure LaneRec where
  state : LaneState
  extent : Option Nat
  stripe : Option Nat
  reads : List LaneRead
  lost : List LostRange
  fill : Option (Nat × Nat)
  accum : List Block
deriving DecidableEq, Repr

/-! ## Rate governor -/

/-- The rate governor (R90). The ceiling is the one of the active POLICY group and has its home there. -/
structure Governor where
  commanded : Nat
  limit : Nat
  target : Nat
  effective : Nat
  quiet : Option Nat
deriving DecidableEq, Repr

/-! ## Stripe lock manager -/

/-- An operation and the mode it holds or asks (R98). -/
structure LockPair where
  op : OpName
  mode : LockMode
deriving DecidableEq, Repr

/-- An entry in use of the stripe lock table (R98). -/
structure LockEntry where
  stripe : Nat
  holders : List LockPair
  waiters : List LockPair
deriving DecidableEq, Repr

/-! ## Buffer arbiter -/

/-- A waiting buffer request (R106). -/
structure BufferRequest where
  op : OpName
  count : Nat
deriving DecidableEq, Repr

/-- The buffers one operation holds (R104). -/
structure Reservation where
  op : OpName
  ids : List Nat
deriving DecidableEq, Repr

/-- The pool of strip buffers by number and the two-class wait queue (R104, R106). -/
structure BufferPool where
  free : List Nat
  held : List Reservation
  fgWait : List BufferRequest
  laneWait : List BufferRequest
deriving DecidableEq, Repr

/-! ## Foreground engine -/

/-- The stages of a foreground operation (R114). -/
inductive FgStage where
  | lockWait | bufferWait | readPhase | reconstructPhase | writePhase
deriving DecidableEq, Repr

/-- The outcome of one command of a phase (R114). -/
inductive CmdOutcome where
  | outstanding
  | good
  | partialBad (first count : Nat)
  | failed
deriving DecidableEq, Repr

/-- One command record of a phase plan (R114). `spare` marks a write that was planned to the TARGET channel (R127). -/
structure PhaseCmd where
  slot : Nat
  chan : Chan
  spare : Bool
  first : Nat
  count : Nat
  attempts : Nat
  outcome : CmdOutcome
deriving DecidableEq, Repr

/-- A phase plan: the judgements taken at planning, the blocks a reconstruction phase is to compute, by slot and block position (R121),
and the commands (R114, R117). -/
structure PhasePlan where
  rebuilt : Bool
  missing : List Nat
  lost : Option (Nat × Nat)
  wanted : List (Nat × Nat)
  cmds : List PhaseCmd
deriving DecidableEq, Repr

/-- An entry of the foreground queue (R114). `bufs` holds the contents of the operation's strip buffers: for each slot and each block
position of the strip the block obtained, or `none`. `computed` names the slots and positions whose block was computed by R6: any other
block held for the failed slot is the spare's copy (log entry 35). -/
structure FgEntry where
  tag : Tag
  write : Bool
  lba : Nat
  count : Nat
  stripe : Nat
  fullStripe : Bool
  blocks : List Block
  arrival : Nat
  stage : FgStage
  plan : PhasePlan
  reconstructed : Bool
  unrecoverable : Option Nat
  bufs : List (List (Option Block))
  computed : List (Nat × Nat)
deriving DecidableEq, Repr

/-! ## Channel unit -/

/-- The role of a channel (R2). -/
inductive Role where
  | unused
  | survivor (slot : Nat)
  | target
deriving DecidableEq, Repr

/-- The operation a strip command belongs to. `orphan` keeps the lane whose abandoned stripe the command served (R145). -/
inductive Issuer where
  | lane (l : Lane)
  | fg (tag : Tag)
  | checkpoint
  | orphan (l : Lane)
deriving DecidableEq, Repr

/-- A strip command: STRIP-READ, or STRIP-WRITE with its blocks (R135). -/
structure StripCmd where
  issuer : Issuer
  write : Bool
  block : Nat
  count : Nat
  blocks : List Block
deriving DecidableEq, Repr

/-- A command in an issue list (R134). -/
structure Issued where
  number : Word32
  cmd : StripCmd
  expiry : Nat
deriving DecidableEq, Repr

/-- A channel record (R134). -/
structure ChannelRec where
  role : Role
  failed : Bool
  linkPresent : Bool
  resetAwaited : Bool
  errors : Nat
  issued : List Issued
  fgPending : List StripCmd
  rebuildPending : List StripCmd
  next : Word32
deriving DecidableEq, Repr

/-- What the part sends on a strip link (R135, R146). -/
inductive StripRecord where
  | channelReset
  | command (number : Word32) (cmd : StripCmd)
deriving DecidableEq, Repr

/-! ## Loss list -/

/-- A record of the lost-strip list (R148). -/
structure LossRec where
  stripe : Nat
  first : Nat
  count : Nat
  chan : Chan
  cause : LossCause
deriving DecidableEq, Repr

/-! ## Checkpoint writer -/

/-- The next sequence (R155). -/
inductive NextSeq where
  | seq (n : Nat)
  | exhausted
deriving DecidableEq, Repr

/-- The write in flight (R155). -/
structure CkptWrite where
  mark : Mark
  sequence : Nat
  slot : CkptSlot
deriving DecidableEq, Repr

/-- What RESTORE has of one slot (R155). -/
inductive SlotRead where
  | notRead
  | read (blocks : List Block)
  | failed
deriving DecidableEq, Repr

/-- The reads of a RESTORE, with the slot being read and the attempts made on it (R155, R163). -/
structure CkptReads where
  a : SlotRead
  b : SlotRead
  current : CkptSlot
  attempts : Nat
deriving DecidableEq, Repr

/-- The writer state, with what is present in WRITING and in READING only (R155). -/
inductive WriterState where
  | idle
  | writing (w : CkptWrite)
  | reading (r : CkptReads)
deriving DecidableEq, Repr

/-- The checkpoint writer (R155). -/
structure Writer where
  state : WriterState
  next : NextSeq
  slot : CkptSlot
  again : Bool
  waiting : Option Mark
  period : Option Nat
deriving DecidableEq, Repr

/-! ## Activity monitors -/

/-- An activity monitor (R166). -/
structure Monitor where
  event : EventKind
  mask : BitVec 16
  filter : Filter
  action : Action
  enable : Bool
  count : Word32
deriving DecidableEq, Repr

/-! ## Control link unit -/

/-- The reasons of a refusal, with the detail each carries (R180). -/
inductive Reason where
  | unknown | malformed | tagInUse | queueFull | state | busy
  | range (field : Nat)
  | span
  | invalidPlan (check : Nat)
  | noLink (chan : Nat)
  | lostStripe | arrayHalted | limitBelowCount | noCheckpoint | staleCheckpoint | checkpointClosed
deriving DecidableEq, Repr

/-- The status of a reply (R180). -/
inductive Answer where
  | done
  | lostData (lba : Nat)
  | unrecoverable | writeIncomplete | overtaken | targetLost
  | refused (reason : Reason)
deriving DecidableEq, Repr

/-- What a STALE-CHECKPOINT reply says of one slot (R164). -/
structure SlotVerdict where
  checkRight : Bool
  fingerprintDiffers : Bool
  epochDiffers : Bool
deriving DecidableEq, Repr

/-- The counts of extent records by state (R56). -/
structure ExtentCounts where
  pending : Nat
  active : Nat
  partDone : Nat
  done : Nat
deriving DecidableEq, Repr

/-- One covered extent of a QUERY EXTENTS reply (R75). -/
structure ExtentReport where
  index : Nat
  length : Nat
  record : ExtentRec
deriving DecidableEq, Repr

/-- One channel of a QUERY CHANNELS reply (R147). -/
structure ChannelReport where
  role : Role
  failed : Bool
  linkPresent : Bool
  resetAwaited : Bool
  errors : Nat
  issued : Nat
  orphans : Nat
  fgPending : Nat
  rebuildPending : Nat
deriving DecidableEq, Repr

/-- One lane of a QUERY RATE reply (R95). -/
structure LaneReport where
  state : LaneState
  extent : Option Nat
  stripe : Option Nat
deriving DecidableEq, Repr

/-- The state of the checkpoint writer as QUERY SESSION names it (R54). -/
inductive WriterKind where
  | idle | writing | reading
deriving DecidableEq, Repr

/-- The active ARRAY group of a QUERY PLAN reply with its derived quantities B, D, C and X (R31). -/
structure ActiveArray where
  group : ArrayGroup
  blocks : Nat
  data : Nat
  capacity : Nat
  extents : Nat
deriving DecidableEq, Repr

/-- The contents of a QUERY PLAN reply, in the order of R31. -/
structure PlanReport where
  stagedArray : ArrayGroup
  stagedValid : Bool
  stagedPolicy : PolicyGroup
  stagedWindows : Vector Window 8
  array : Option ActiveArray
  policy : PolicyGroup
  windows : Vector Window 8
deriving DecidableEq, Repr

/-- The results a reply carries beyond its header (R180). -/
inductive Result where
  | none
  /-- IDENTIFY (R184): the items of its table in order, and the last reset cause. -/
  | identify (items : List Nat) (cause : ResetCause)
  /-- RESTORE DONE (R164). -/
  | restored (slot : CkptSlot) (sequence : Nat) (mark : Mark) (lossLimit done partDone pending losses : Nat)
  /-- RESTORE STALE-CHECKPOINT (R164). -/
  | stale (a b : SlotVerdict)
  /-- READ-BLOCKS DONE (R122). -/
  | blocks (bs : List Block)
  /-- QUERY SESSION (R54). -/
  | session (state : SessionState) (longOp : Option LongOp) (counts : ExtentCounts) (ahead losses lossLimit : Nat)
      (writer : WriterKind) (next : NextSeq) (slot : CkptSlot)
  /-- QUERY PLAN (R31). -/
  | plan (report : PlanReport)
  /-- QUERY EXTENTS (R75). -/
  | extents (count : Nat) (holdWaiting : Bool) (rows : List ExtentReport) (ahead : List Nat)
  /-- QUERY LOSSES (R152). -/
  | losses (length lossLimit : Nat) (rows : List LossRec)
  /-- QUERY CHANNELS (R147). -/
  | channels (rows : List ChannelReport)
  /-- QUERY RATE (R95). -/
  | rate (commanded ceiling limit target effective : Nat) (lowering : Bool) (quietMs : Option Nat) (working : Nat)
      (rows : List LaneReport)
  /-- QUERY MONITORS (R172). -/
  | monitors (rows : List Monitor)
deriving DecidableEq, Repr

/-- One field of a query's contents, with its value (R179). Which bytes carry a field the manual does not say (log entry 3). -/
inductive ResultField where
  -- the session (R54)
  | sessionState (st : SessionState)
  | closingMark (set : Bool)
  | longOperation (op : Option LongOp)
  | pendingExtents (n : Nat)
  | activeExtents (n : Nat)
  | partialExtents (n : Nat)
  | doneExtents (n : Nat)
  | aheadStripes (n : Nat)
  | lossRecords (n : Nat)
  | lossLimit (n : Nat)
  | writerState (k : WriterKind)
  | nextSequence (n : NextSeq)
  | nextSlot (slot : CkptSlot)
  -- the plan (R31)
  | members (n : Nat)
  | stripKiB (n : Nat)
  | stripes (n : Nat)
  | extentSize (n : Nat)
  | failedSlot (n : Nat)
  | mappedChannel (n : Nat)
  | spareChannel (n : Nat)
  | epoch (n : Nat)
  | fillPattern (w : Word32)
  | stagedValid (valid : Bool)
  | retryLimit (n : Nat)
  | errorLimit (n : Nat)
  | timeoutMs (n : Nat)
  | latencyMs (n : Nat)
  | periodS (n : Nat)
  | ceiling (n : Nat)
  | quietS (n : Nat)
  | noticeClass (c : NoticeClass)
  | silence (silenced : Bool)
  | windowEnable (enable : Bool)
  | windowBase (base : BitVec 12)
  | windowMask (mask : BitVec 12)
  | windowClass (c : ExtClass)
  | arrayActive (present : Bool)
  | stripBlocks (n : Nat)
  | stripeBlocks (n : Nat)
  | arrayBlocks (n : Nat)
  | extentCount (n : Nat)
  -- the extents (R75)
  | holdWaiting (set : Bool)
  | extentIndex (n : Nat)
  | extentLength (n : Nat)
  | extentState (st : ExtentState)
  | extentClass (c : ExtClass)
  | extentCursor (n : Option Nat)
  | extentLane (l : Option Lane)
  | aheadStripe (n : Nat)
  -- the losses (R152)
  | lossStripe (n : Nat)
  | lossFirst (n : Nat)
  | lossCount (n : Nat)
  | lossChannel (c : Chan)
  | lossCause (c : LossCause)
  -- the channels (R147)
  | role (r : Role)
  | failed (failed : Bool)
  | linkPresent (present : Bool)
  | resetAwaited (awaited : Bool)
  | errorCount (n : Nat)
  | issuedCommands (n : Nat)
  | orphanCommands (n : Nat)
  | foregroundPending (n : Nat)
  | rebuildPending (n : Nat)
  -- the rate (R95)
  | commandedLevel (n : Nat)
  | governorLimit (n : Nat)
  | targetLevel (n : Nat)
  | effectiveLevel (n : Nat)
  | loweringPending (pending : Bool)
  | quietRunning (running : Bool)
  | quietMs (n : Option Nat)
  | workingLanes (n : Nat)
  | laneState (st : LaneState)
  | laneExtent (x : Option Nat)
  | laneStripe (s : Option Nat)
  -- the monitors (R172)
  | monitorEvent (e : EventKind)
  | monitorMask (m : BitVec 16)
  | monitorFilter (f : Filter)
  | monitorAction (a : Action)
  | monitorEnable (enable : Bool)
  | monitorCount (n : Word32)

/-- A reply: the tag and the type of the request it answers, its status and its results (R180). -/
structure Reply where
  tag : Tag
  type : Byte
  answer : Answer
  result : Result
deriving DecidableEq, Repr

/-- The status of a strip command as a notice names it: TIMEOUT is the channel unit's own (R135). -/
inductive StatusName where
  | good | medium | rejected | linkDown | timeout | memberFailed
deriving DecidableEq, Repr

/-- The last value of a notice (R181). -/
inductive NoticeValue where
  | resetCause (c : ResetCause)
  | failCause (c : FailCause)
  | memberError (status : StatusName) (errors : Nat)
  | lateCompletion (number : Word32) (status : StatusName)
  | stripLost (stripe : Nat) (chan : Chan)
  | lossLimit (length limit : Nat)
  | stripe (s : Nat)
  | session (state : SessionState)
  | extent (x : Nat)
  | held (n : Nat)
  | level (n : Nat)
  | event (e : EventKind)
  | linkError (reason : LinkErrorReason) (type : Byte)
deriving DecidableEq, Repr

/-- A notice: its key (kind and subject, 255 for none), its count, its first-occurrence order and its last value (R181). -/
structure Notice where
  kind : NoticeKind
  subject : Nat
  count : Nat
  order : Nat
  value : NoticeValue
deriving DecidableEq, Repr

/-- A record the sender sends: a reply or a notice (R182). -/
inductive OutRecord where
  | reply (r : Reply)
  | notice (n : Notice)
deriving DecidableEq, Repr

/-- The sender's state (R182). -/
inductive Sender where
  | idle
  | sending (r : OutRecord)
deriving DecidableEq, Repr

/-- What the link's flow control can hold back: a record or bytes (R176). -/
inductive Inbound where
  | record (tag : Tag) (r : Request)
  | bytes (bs : List Byte)
deriving DecidableEq, Repr

/-- The receiver's hunting state (R175). -/
inductive Hunting where
  | hunt | frame
deriving DecidableEq, Repr

/-- The control link unit (R175, R176, R181 to R183). `held` is the record that dispatch holds and, behind it, what the flow control
holds back. Two fields are the model's own: `carried` has the requests whose bytes the receiver has gathered into a frame, the latest
first, so that the search knows what the bodies stand for that the manual does not lay out (log entry 41);
`sent` has what the sender has sent to its end. -/
structure ControlLink where
  hunting : Hunting
  gathered : List Byte
  carried : List Request
  held : List Inbound
  replies : List Reply
  sender : Sender
  notices : List Notice
  nextOrder : Nat
  resetCause : ResetCause
  sent : List OutRecord
deriving DecidableEq, Repr

/-! ## What one block has handed another and the other has not yet taken -/

/-- The status with which the channel unit hands a command's ending to its issuer (R138, R139, R144). A MEDIUM range is relative to the
command's first block. -/
inductive EndStatus where
  | good (blocks : List Block)
  | medium (first count : Nat) (blocks : List Block)
  | rejected
  | timeout
  | memberFailed
deriving DecidableEq, Repr

/-- A command's ending on its way to its issuer. -/
structure Ending where
  chan : Chan
  cmd : StripCmd
  status : EndStatus
deriving DecidableEq, Repr

/-- A FAILED declaration on its way to the session controller, with the channel's role (R144). -/
structure Told where
  chan : Chan
  role : Role
deriving DecidableEq, Repr

/-- A claim's answer on its way to the lane engine: extent, cursor and length, or no extent (R62, R63). -/
structure ClaimAnswer where
  lane : Lane
  given : Option (Nat × Nat × Nat)
deriving DecidableEq, Repr

/-- What is handed over and not yet taken. -/
structure Mail where
  endings : List Ending
  told : List Told
  claims : List Lane
  answers : List ClaimAnswer
  grants : List OpName
  reservations : List OpName
  triggers : Nat
  signals : Nat
deriving DecidableEq, Repr

/-! ## The whole part -/

/-- The state of the NK2410. `pending` is the queue of commands that wait, first in, first out; `now` is the time in milliseconds since
the last reset; `stripSent` is the model's own record of what has been sent on the strip links since the last reset. -/
@[ext]
structure State where
  pending : List Instr
  now : Nat
  plan : PlanStore
  session : SessionCtl
  table : ExtentTable
  lanes : Vector LaneRec 4
  governor : Governor
  locks : List LockEntry
  pool : BufferPool
  queue : List FgEntry
  chans : Vector ChannelRec 16
  stripSent : List (Chan × StripRecord)
  losses : List LossRec
  writer : Writer
  monitors : Vector Monitor 4
  link : ControlLink
  mail : Mail
deriving DecidableEq, Repr

/-- Faults: the manual gives the block no stop of its own, so there is none (log entry 1). -/
inductive Fault where
deriving DecidableEq, Repr

/-- Refusals. -/
inductive Refusal where
  /-- Raised by `exec` for a command that has no meaning in this model yet; safe. -/
  | notModelled (mnemonic : String)
deriving DecidableEq, Repr

/-! ## Reset values -/

/-- The staged ARRAY group after either reset: every field zero (R16). -/
def zeroArray : ArrayGroup :=
  { members := 0, stripKiB := 0, stripes := 0, extentSize := 0, failedSlot := 0, slotMap := [], spare := 0, epoch := 0, fill := 0 }

/-- The default POLICY group (section 2.3). -/
def defaultPolicy : PolicyGroup :=
  { retryLimit := 2, errorLimit := 8, timeoutMs := 5000, latencyMs := 200, lossLimit := 64, periodS := 120, ceiling := 4, quietS := 30
    classes := #v[.urgent, .urgent, .routine, .routine, .urgent, .urgent, .routine, .urgent, .routine, .routine, .routine, .routine,
      .routine]
    silences := #v[false, false, false, false, false, false, false, false, false, false, false, false, false] }

/-- A window after either reset (R16, R20). -/
def offWindow : Window := { enable := false, base := 0, mask := 0, cls := .first }

/-- A PARKED lane (R76). -/
def LaneRec.parked : LaneRec :=
  { state := .parked, extent := none, stripe := none, reads := [], lost := [], fill := none, accum := [] }

/-- A channel record after either reset (R134). -/
def ChannelRec.reset : ChannelRec :=
  { role := .unused, failed := false, linkPresent := false, resetAwaited := true, errors := 0, issued := [], fgPending := []
    rebuildPending := [], next := 0 }

/-- The checkpoint writer after either reset and on each return to IDLE (R155). -/
def Writer.reset : Writer := { state := .idle, next := .seq 1, slot := .a, again := false, waiting := none, period := none }

/-- A monitor after either reset (R166). -/
def Monitor.reset : Monitor := { event := .fgLate, mask := 0, filter := .always, action := .nothing, enable := false, count := 0 }

/-- The extent table without records (R56). -/
def ExtentTable.empty : ExtentTable := { extents := [], ahead := [], holdWaiting := false }

/-- Nothing handed over and not yet taken. -/
def Mail.empty : Mail :=
  { endings := [], told := [], claims := [], answers := [], grants := [], reservations := [], triggers := 0, signals := 0 }

/-- The READY notice (R186). -/
def Notice.ready (c : ResetCause) : Notice := { kind := .ready, subject := 255, count := 1, order := 0, value := .resetCause c }

/-- The control link unit right after a reset: the READY notice has joined the empty notice set and the sender has begun it (R186). -/
def ControlLink.reset (c : ResetCause) : ControlLink :=
  { hunting := .hunt, gathered := [], carried := [], held := [], replies := [], sender := .sending (.notice (.ready c)), notices := []
    nextOrder := 1, resetCause := c, sent := [] }

/-- The part right after a reset with the given cause, with the given commands still waiting (R185). -/
def State.afterReset (c : ResetCause) (pending : List Instr) : State :=
  { pending, now := 0
    plan :=
      { stagedValid := false, stagedArray := zeroArray, stagedPolicy := defaultPolicy, stagedWindows := .replicate 8 offWindow, array := none
        policy := defaultPolicy, windows := .replicate 8 offWindow }
    session := { state := .idle, longOp := none }
    table := .empty
    lanes := .replicate 4 .parked
    governor := { commanded := 2, limit := 4, target := 2, effective := 2, quiet := none }
    locks := []
    pool := { free := List.range 384, held := [], fgWait := [], laneWait := [] }
    queue := []
    chans := .replicate 16 .reset
    stripSent := (List.finRange 16).map fun c => (c, .channelReset)
    losses := []
    writer := .reset
    monitors := .replicate 4 .reset
    link := .reset c
    mail := .empty }

/-- The machine right after a power-on reset (R185). -/
def State.reset : State := State.afterReset .power []

end Sys2Proof.Machine
end

