-- ==== Sys2Proof/Config.lean ====
section
/-! DEFINITION. What the part fixes: its capacities (section 3.3), the codes of its records (sections 11.3 to 11.5), and, without a
body, the byte layouts the manual does not give (log entry 3). -/

namespace Sys2Proof.Config

/-- Member channels. -/
def channels : Nat := 16
/-- Rebuild lanes. -/
def lanes : Nat := 4
/-- Strip buffers (R104). -/
def buffers : Nat := 384
/-- Requests in the foreground queue (R114). -/
def queueRoom : Nat := 32
/-- Entries of the stripe lock table (R98). -/
def lockEntries : Nat := 48
/-- Commands issued on one channel at once (R137). -/
def issueRoom : Nat := 4
/-- Records of the lost-strip list (R148). -/
def lossRoom : Nat := 256
/-- Stripes of the ahead set (R68). -/
def aheadRoom : Nat := 256
/-- Extents (R9). -/
def extentRoom : Nat := 4096
/-- Windows (R59). -/
def windows : Nat := 8
/-- Activity monitors (R166). -/
def monitors : Nat := 4
/-- Replies at which dispatch begins to hold records (R176). -/
def holdAt : Nat := 15
/-- Blocks of one slot of the checkpoint area (R10). -/
def slotBlocks : Nat := 256
/-- Blocks a RESTORE reads from one slot (R163). -/
def restoreBlocks : Nat := 6
/-- The largest body length of a frame (R173). -/
def maxBody : Nat := 131136
/-- Vendor code, part code and revision (R184). -/
def vendor : Nat := 0x2D7
def part : Nat := 0x2410
def revision : Nat := 1

/-! The bodies of these requests have no byte layout in the manual (section 4: it gives the layout of the principal bodies only). Each
parser is a constant without a body: nothing can be proved of which bytes it accepts. It is read only where a record is found in bytes
(R175); a request that arrives as its own command carries its fields. -/

opaque parseArray : List Byte → Option ArrayGroup
opaque parsePolicy : List Byte → Option PolicyFields
opaque parseWindow : List Byte → Option WindowFields
opaque parseGroups : List Byte → Option Groups
opaque parseLevel : List Byte → Option Nat
opaque parseMonitor : List Byte → Option MonitorFields
/-- The subject of a QUERY body, with its arguments (R179). -/
opaque parseQuery : List Byte → Option QuerySubject
/-- The body that a request carries where the manual does not lay it out, or where it departs from the layout of its type (log entries 3
and 41). -/
opaque bodyBytes : Request → List Byte
/-- A byte behind those of a body that must not parse (log entry 41). -/
opaque surplusByte : Request → Byte

/-! Nor have these contents of what the part sends: the short results, the fields of a query's contents, and the last values of notices.
The order of a query's fields the manual gives (R179, `Machine.contents`). -/

opaque resultBytes : Machine.Result → List Byte
opaque fieldBytes : Machine.ResultField → List Byte
opaque valueBytes : Machine.NoticeValue → List Byte

end Sys2Proof.Config
end

