-- ==== Sys2Proof/Machine/Contents.lean ====
section
/-! DEFINITION. The contents of a query's reply, field by field in the order its rule lists them (R179). -/

namespace Sys2Proof.Machine
open Sys2Proof

/-- The session state without the closing mark, which is a field of its own (R54). -/
def withoutMark : SessionState → SessionState
  | .running _ => .running false
  | st => st

/-- The closing mark is present (R45). -/
def closingMark : SessionState → Bool
  | .running closing => closing
  | _ => false

/-- The fields of an ARRAY group, in the order of R17. -/
def arrayFields (g : ArrayGroup) : List ResultField :=
  [.members g.members, .stripKiB g.stripKiB, .stripes g.stripes, .extentSize g.extentSize, .failedSlot g.failedSlot]
    ++ g.slotMap.map .mappedChannel ++ [.spareChannel g.spare, .epoch g.epoch, .fillPattern g.fill]

/-- The fields of a POLICY group, in the order of section 2.3. -/
def policyFields (p : PolicyGroup) : List ResultField :=
  [.retryLimit p.retryLimit, .errorLimit p.errorLimit, .timeoutMs p.timeoutMs, .latencyMs p.latencyMs, .lossLimit p.lossLimit,
    .periodS p.periodS, .ceiling p.ceiling, .quietS p.quietS]
    ++ p.classes.toList.map .noticeClass ++ p.silences.toList.map .silence

/-- The fields of a window, in the order of R19. -/
def windowFields (w : Window) : List ResultField := [.windowEnable w.enable, .windowBase w.base, .windowMask w.mask, .windowClass w.cls]

/-- The active ARRAY group with its derived quantities, or its absence (R31). -/
def activeFields : Option ActiveArray → List ResultField
  | some a =>
    .arrayActive true :: arrayFields a.group
      ++ [.stripBlocks a.blocks, .stripeBlocks a.data, .arrayBlocks a.capacity, .extentCount a.extents]
  | none => [.arrayActive false]

/-- The fields of QUERY PLAN (R31). -/
def planFields (p : PlanReport) : List ResultField :=
  arrayFields p.stagedArray ++ [.stagedValid p.stagedValid] ++ policyFields p.stagedPolicy ++ p.stagedWindows.toList.flatMap windowFields
    ++ activeFields p.array ++ policyFields p.policy ++ p.windows.toList.flatMap windowFields

/-- The cursor of an extent, when it is ACTIVE or PARTIAL (R75). -/
def shownCursor : ExtentState → Option Nat
  | .active c _ | .partDone c => some c
  | .pending | .done => none

/-- The lane of an extent, when it is ACTIVE (R75). -/
def shownLane : ExtentState → Option Lane
  | .active _ l => some l
  | .pending | .partDone _ | .done => none

/-- The fields of one covered extent (R75). -/
def extentFields (e : ExtentReport) : List ResultField :=
  [.extentIndex e.index, .extentLength e.length, .extentState e.record.state, .extentClass e.record.cls,
    .extentCursor (shownCursor e.record.state), .extentLane (shownLane e.record.state)]

/-- The fields of one loss record, in the order of R148. -/
def lossFields (r : LossRec) : List ResultField :=
  [.lossStripe r.stripe, .lossFirst r.first, .lossCount r.count, .lossChannel r.chan, .lossCause r.cause]

/-- The fields of one channel (R147). -/
def channelFields (r : ChannelReport) : List ResultField :=
  [.role r.role, .failed r.failed, .linkPresent r.linkPresent, .resetAwaited r.resetAwaited, .errorCount r.errors,
    .issuedCommands r.issued, .orphanCommands r.orphans, .foregroundPending r.fgPending, .rebuildPending r.rebuildPending]

/-- The fields of one lane (R95). -/
def laneFields (r : LaneReport) : List ResultField := [.laneState r.state, .laneExtent r.extent, .laneStripe r.stripe]

/-- The fields of one monitor (R172). -/
def monitorFields (m : Monitor) : List ResultField :=
  [.monitorEvent m.event, .monitorMask m.mask, .monitorFilter m.filter, .monitorAction m.action, .monitorEnable m.enable,
    .monitorCount m.count]

/-- The contents of a query's reply, in the order its rule lists them; the items of a list stand in ascending order of index, channel,
lane or monitor (R179). -/
def contents : Result → List ResultField
  | .session state op counts ahead losses limit writer next slot =>
    [.sessionState (withoutMark state), .closingMark (closingMark state), .longOperation op, .pendingExtents counts.pending,
      .activeExtents counts.active, .partialExtents counts.partDone, .doneExtents counts.done, .aheadStripes ahead, .lossRecords losses,
      .lossLimit limit, .writerState writer, .nextSequence next, .nextSlot slot]
  | .plan p => planFields p
  | .extents count holding rows ahead =>
    [.extentCount count, .holdWaiting holding] ++ rows.flatMap extentFields ++ ahead.map .aheadStripe
  | .losses length limit rows => [.lossRecords length, .lossLimit limit] ++ rows.flatMap lossFields
  | .channels rows => rows.flatMap channelFields
  | .rate commanded ceiling limit target effective lowering quiet working rows =>
    [.commandedLevel commanded, .ceiling ceiling, .governorLimit limit, .targetLevel target, .effectiveLevel effective,
      .loweringPending lowering, .quietRunning quiet.isSome, .quietMs quiet, .workingLanes working] ++ rows.flatMap laneFields
  | .monitors rows => rows.flatMap monitorFields
  | .none | .identify _ _ | .restored _ _ _ _ _ _ _ _ | .stale _ _ | .blocks _ => []

end Sys2Proof.Machine
end

