-- ==== Sys2Proof/Machine/Bytes.lean ====
section
/-! DEFINITION. Bytes: byte order, blocks and their bytes, the fill pattern, the CRC-32, and the frames of the control link. -/

namespace Sys2Proof.Machine
open Sys2Proof

/-- The number that bytes spell, most significant byte first (R173). -/
def bytesToNat (bs : List Byte) : Nat := bs.foldl (fun n b => n * 256 + b.toNat) 0

/-- A number as `n` bytes, most significant byte first (R173). -/
def bigEndian (n v : Nat) : List Byte := (List.range n).map fun i => BitVec.ofNat 8 (v >>> (8 * (n - 1 - i)))

/-- A block that begins with the given bytes and is zero beyond them. -/
def blockOfBytes (bs : List Byte) : Block := BitVec.ofNat 32768 (bytesToNat bs <<< (8 * (4096 - bs.length)))

/-- The byte of a block at a position, position 0 the first. -/
def blockByte (b : Block) (i : Nat) : Byte := BitVec.extractLsb' (8 * (4095 - i)) 8 b

/-- All bytes of a block in order. -/
def bytesOfBlock (b : Block) : List Byte := (List.range 4096).map (blockByte b)

/-- Bytes laid into whole blocks, the last one filled with zeros. -/
def blocksOfBytes (bs : List Byte) : List Block :=
  (List.range ((bs.length + 4095) / 4096)).map fun i => blockOfBytes ((bs.drop (4096 * i)).take 4096)

/-- The byte at a position of a run of blocks. -/
def byteAt (blocks : List Block) (i : Nat) : Byte := blockByte (blocks.getD (i / 4096) 0) (i % 4096)

/-- The number that `n` bytes of a run of blocks spell from a position on. -/
def numAt (blocks : List Block) (at_ n : Nat) : Nat := bytesToNat ((List.range n).map fun i => byteAt blocks (at_ + i))

/-- A block filled with a 32-bit pattern, its most significant byte first, 1024 times (R1). -/
def fillBlock (pattern : Word32) : Block := (BitVec.replicate 1024 pattern).cast (by decide)

/-- The XOR of several blocks (R1). -/
def xorAll (bs : List Block) : Block := bs.foldl Block.xor 0

/-- One bit of the polynomial division of R174. The register holds the remainder with its first bit in the least significant place,
as the bytes are taken least significant bit first (log entry 4). -/
def crcBit (r : Word32) : Word32 := if r.getLsbD 0 then (r >>> 1) ^^^ 0xEDB88320#32 else r >>> 1

/-- One byte of the division of R174. -/
def crcByte (r : Word32) (b : Byte) : Word32 :=
  crcBit (crcBit (crcBit (crcBit (crcBit (crcBit (crcBit (crcBit (r ^^^ b.setWidth 32))))))))

/-- The CRC-32 of a sequence of bytes (R174): register preset to ones, final remainder inverted. -/
def crc32 (bs : List Byte) : Word32 := ~~~ (bs.foldl crcByte 0xFFFFFFFF#32)

/-- The frame of a record: start code, type, tag, body length, body, check (R173). -/
def frame (type : Byte) (tag : Tag) (body : List Byte) : List Byte :=
  let inner := type :: bigEndian 2 tag.toNat ++ bigEndian 4 body.length ++ body
  0xD2#8 :: 0x4B#8 :: inner ++ bigEndian 4 (crc32 inner).toNat

/-- The search of HUNT: the bytes from the first start code on, or what may still become one (R175). -/
def hunt : List Byte → List Byte
  | [] => []
  | [a] => if a = 0xD2#8 then [a] else []
  | a :: b :: rest => if a = 0xD2#8 ∧ b = 0x4B#8 then a :: b :: rest else hunt (b :: rest)

/-- What the receiver makes of the bytes it has (R175). -/
inductive Scan where
  /-- No whole record yet: these bytes stay gathered. -/
  | more (gathered : List Byte)
  /-- A record is discarded. The search goes on in `rest`, which begins after the discarded start code. -/
  | bad (reason : LinkErrorReason) (type : Byte) (rest : List Byte)
  /-- A record with a right check. `rest` begins after its check. -/
  | record (type : Byte) (tag : Tag) (body rest : List Byte)
deriving DecidableEq, Repr

/-- The receiver's next outcome on the bytes it has (R175). -/
def scan (bytes : List Byte) : Scan :=
  let l := hunt bytes
  let len := bytesToNat ((l.drop 5).take 4)
  let type := l.getD 2 0
  if l.length < 9 then .more l
  else if Config.maxBody < len then .bad .length type (l.drop 2)
  else if l.length < 13 + len then .more l
  else if bytesToNat ((l.drop (9 + len)).take 4) = (crc32 ((l.drop 2).take (7 + len))).toNat then
    .record type (BitVec.ofNat 16 (bytesToNat ((l.drop 3).take 2))) ((l.drop 9).take len) (l.drop (13 + len))
  else .bad .check type (l.drop 2)

end Sys2Proof.Machine
end

