-- ==== Sys2Proof/Machine/Geometry.lean ====
section
/-! DEFINITION. The arithmetic of chapter 1: strips, stripes, parity rotation, logical block addresses, runs, extents, the checkpoint
area; and the commit checks of an ARRAY group. -/

namespace Sys2Proof.Machine
open Sys2Proof

/-- B: blocks per strip (section 2.2). -/
def stripBlocks (g : ArrayGroup) : Nat := g.stripKiB / 4

/-- D = (N−1)×B: data blocks per stripe (section 2.2). -/
def stripeData (g : ArrayGroup) : Nat := (g.members - 1) * stripBlocks g

/-- C: logical blocks of the array (section 2.2). -/
def capacity (g : ArrayGroup) : Nat := g.stripes * stripeData g

/-- X = ceil(stripe count ÷ E): extents of the array (R9). -/
def extentCount (g : ArrayGroup) : Nat := (g.stripes + g.extentSize - 1) / g.extentSize

/-- The length of extent x: E, but for the last extent (R9). -/
def extentLength (g : ArrayGroup) (x : Nat) : Nat :=
  if x + 1 = extentCount g then g.stripes - x * g.extentSize else g.extentSize

/-- p(s) = (N−1) − (s mod N) (R4). -/
def paritySlot (g : ArrayGroup) (s : Nat) : Nat := (g.members - 1) - s % g.members

/-- The slot of data strip d of stripe s (R5). -/
def dataSlot (g : ArrayGroup) (s d : Nat) : Nat := (paritySlot g s + 1 + d) % g.members

/-- What slot j holds in stripe s: `none` for the parity strip, else its data strip (j − p(s) − 1) mod N (R5). -/
def stripOn (g : ArrayGroup) (s j : Nat) : Option Nat :=
  if j = paritySlot g s then none else some ((j + (g.members - 1 - paritySlot g s)) % g.members)

/-- The place of a logical block: stripe, data strip, block within the strip, slot, member block (R7). -/
structure Place where
  stripe : Nat
  strip : Nat
  block : Nat
  slot : Nat
  member : Nat
deriving DecidableEq, Repr

/-- The place of logical block a (R7). -/
def locate (g : ArrayGroup) (a : Nat) : Place :=
  let s := a / stripeData g
  let o := a % stripeData g
  let d := o / stripBlocks g
  let k := o % stripBlocks g
  { stripe := s, strip := d, block := k, slot := dataSlot g s d, member := s * stripBlocks g + k }

/-- The logical block at block k of slot j of stripe s, if the slot holds data there (R7). -/
def logicalBlock (g : ArrayGroup) (s j k : Nat) : Option Nat :=
  (stripOn g s j).map fun d => s * stripeData g + d * stripBlocks g + k

/-- The run lies within the array (R8). -/
def runInArray (g : ArrayGroup) (a n : Nat) : Bool := a + n ≤ capacity g

/-- The run lies within one stripe (R8). -/
def runInStripe (g : ArrayGroup) (a n : Nat) : Bool := a / stripeData g = (a + n - 1) / stripeData g

/-- The run covers every data block of its stripe (R8). -/
def runIsFull (g : ArrayGroup) (a n : Nat) : Bool := a % stripeData g = 0 ∧ n = stripeData g

/-- A data strip that a run touches, with its slot and the touched range of block positions (R8). -/
structure Touched where
  strip : Nat
  slot : Nat
  first : Nat
  count : Nat
deriving DecidableEq, Repr

/-- The data strips that a run touches, in strip order (R8). -/
def touchedStrips (g : ArrayGroup) (a n : Nat) : List Touched :=
  let b := stripBlocks g
  let o := a % stripeData g
  let d0 := o / b
  let d1 := (o + n - 1) / b
  (List.range (d1 + 1 - d0)).map fun i =>
    let d := d0 + i
    let lo := max o (d * b)
    let hi := min (o + n) ((d + 1) * b)
    { strip := d, slot := dataSlot g (a / stripeData g) d, first := lo - d * b, count := hi - lo }

/-- The channel a number names. Channel numbers are below 16 by the range checks of R17. -/
def chanOf (n : Nat) : Chan := Fin.ofNat 16 n

/-- The channel mapped to a slot by the ARRAY group (R12). -/
def mappedChan (g : ArrayGroup) (j : Nat) : Chan := chanOf (g.slotMap.getD j 0)

/-- The spare channel. -/
def spareChan (g : ArrayGroup) : Chan := chanOf g.spare

/-- All slots of the array. -/
def slotsOf (g : ArrayGroup) : List Nat := List.range g.members

/-- The surviving slots in ascending order (section 1.2). -/
def survivorSlots (g : ArrayGroup) : List Nat := (slotsOf g).filter (· ≠ g.failedSlot)

/-- The first member block of a slot of the checkpoint area (R10). -/
def areaStart (g : ArrayGroup) : CkptSlot → Nat
  | .a => g.stripes * stripBlocks g
  | .b => g.stripes * stripBlocks g + Config.slotBlocks

/-- The other slot of the checkpoint area. -/
def otherSlot : CkptSlot → CkptSlot
  | .a => .b
  | .b => .a

/-- The number of the first check that fails, of a list of numbered checks. -/
def firstFailing (checks : List (Nat × Bool)) : Option Nat := (checks.find? fun c => !c.2).map Prod.fst

/-- A strip size in KiB that the part knows (R17). -/
def knownStrip (k : Nat) : Bool := k = 16 ∨ k = 32 ∨ k = 64 ∨ k = 128

/-- E is a power of two in 256..65536 (R22, check 4). -/
def knownExtentSize (e : Nat) : Bool := (List.range 9).any fun i => e = 256 * 2 ^ i

/-- The channel numbers of the slots other than the failed slot, with a number outside 0..15 for a slot that is not mapped. -/
def survivorNumbers (g : ArrayGroup) : List Nat := (survivorSlots g).map fun j => g.slotMap.getD j 255

/-- The first commit check of R22 that an ARRAY group fails. -/
def commitCheck (g : ArrayGroup) : Option Nat :=
  firstFailing [
    (1, 3 ≤ g.members ∧ g.members ≤ 16),
    (2, knownStrip g.stripKiB),
    (3, 1 ≤ g.stripes ∧ g.stripes ≤ 268435456),
    (4, knownExtentSize g.extentSize),
    (5, g.stripes ≤ 4096 * g.extentSize),
    (6, g.failedSlot < g.members),
    (7, (survivorNumbers g).all (· < 16) ∧ (survivorNumbers g).Nodup),
    (8, g.spare ∉ survivorNumbers g)]

end Sys2Proof.Machine
end

