-- ==== Sys2Proof/Machine/Link.lean ====
section
/-! DEFINITION. The control link unit: the notice set, the reply queue and the sender (R181, R182), replies (R180), outstanding tags
(R177), and the bytes of the records it sends (R173, R174). -/

namespace Sys2Proof.Machine
open Sys2Proof

/-- The place of a notice kind in the tables of sections 2.3 and 11.5. -/
def kindIndex : NoticeKind → Fin 13
  | .ready => 0
  | .memberFailed => 1
  | .memberError => 2
  | .lateCompletion => 3
  | .stripLost => 4
  | .lossLimit => 5
  | .lossCleared => 6
  | .sessionState => 7
  | .extentDone => 8
  | .holdWaiting => 9
  | .rateChanged => 10
  | .monitorOverflow => 11
  | .linkError => 12

/-- The class the sender gives a kind: READY is URGENT under every POLICY group (R29). -/
def noticeClass (p : PolicyGroup) (k : NoticeKind) : NoticeClass := if k = .ready then .urgent else p.classes[kindIndex k]

/-- Whether a kind is silenced: READY never is (R29). -/
def silenced (p : PolicyGroup) (k : NoticeKind) : Bool := if k = .ready then false else p.silences[kindIndex k]

/-- The pending notice of a class with the lowest first-occurrence order (R182). -/
def oldestOf (p : PolicyGroup) (c : NoticeClass) (ns : List Notice) : Option Notice :=
  ns.foldl (fun best n =>
    if noticeClass p n.kind = c then
      match best with
      | none => some n
      | some m => if n.order < m.order then some n else some m
    else best) none

/-- The sender chooses the next record: the head reply, then the oldest URGENT notice, then the oldest ROUTINE notice (R182). A record
that is begun leaves its queue or the notice set. -/
def chooseNext (p : PolicyGroup) (l : ControlLink) : ControlLink :=
  match l.replies with
  | r :: rest => { l with replies := rest, sender := .sending (.reply r) }
  | [] =>
    match (oldestOf p .urgent l.notices).or (oldestOf p .routine l.notices) with
    | some n => { l with notices := l.notices.erase n, sender := .sending (.notice n) }
    | none => { l with sender := .idle }

/-- An IDLE sender that has something to send begins it (R182). -/
def kick (p : PolicyGroup) (l : ControlLink) : ControlLink :=
  match l.sender with
  | .idle => chooseNext p l
  | .sending _ => l

/-- Whether a notice has a key. -/
def Notice.hasKey (n : Notice) (k : NoticeKind) (subject : Nat) : Bool := n.kind = k ∧ n.subject = subject

/-- The notice set takes an occurrence: merged into the pending notice of its key, dropped if its kind is silenced, or joined (R181). -/
def takeOccurrence (p : PolicyGroup) (k : NoticeKind) (subject : Nat) (v : NoticeValue) (l : ControlLink) : ControlLink :=
  if l.notices.any (·.hasKey k subject) then
    { l with
      notices := l.notices.map fun n => if n.hasKey k subject then { n with count := min 65535 (n.count + 1), value := v } else n }
  else if silenced p k then l
  else
    { l with
      notices := l.notices ++ [{ kind := k, subject, count := 1, order := l.nextOrder, value := v }]
      nextOrder := l.nextOrder + 1 }

/-- A block raises an occurrence of a notice (R181). The sender begins it at once if it is IDLE. -/
def raiseNotice (k : NoticeKind) (subject : Nat) (v : NoticeValue) (s : State) : State :=
  { s with link := kick s.plan.policy (takeOccurrence s.plan.policy k subject v s.link) }

/-- A reply is handed to the sender: it joins the reply queue (R182). -/
def handReply (r : Reply) (s : State) : State :=
  { s with link := kick s.plan.policy { s.link with replies := s.link.replies ++ [r] } }

/-- The type code of a request (R178). -/
def typeCode : Request → Byte
  | .identify _ => 0x01
  | .reset => 0x02
  | .stageArray _ => 0x03
  | .stagePolicy _ => 0x04
  | .stageWindow _ => 0x05
  | .commit _ => 0x06
  | .querySession _ => 0x07
  | .queryPlan _ => 0x07
  | .queryExtents _ => 0x07
  | .queryLosses _ => 0x07
  | .queryChannels _ => 0x07
  | .queryRate _ => 0x07
  | .queryMonitors _ => 0x07
  | .queryUnknown => 0x07
  | .start _ => 0x08
  | .restore _ => 0x09
  | .pause _ => 0x0A
  | .continueSession _ => 0x0B
  | .abort _ => 0x0C
  | .release _ => 0x0D
  | .setRate _ => 0x0E
  | .setMonitor _ => 0x0F
  | .readBlocks _ => 0x10
  | .writeBlocks _ => 0x11
  | .unknown t => t

/-- The request types of section 11.3 (R176, check 1). -/
def knownType (t : Byte) : Bool := 0x01 ≤ t.toNat ∧ t.toNat ≤ 0x11

/-- A request is answered: status DONE or another, with its results (R180). -/
def answer (tag : Tag) (type : Byte) (a : Answer) (r : Result) (s : State) : State :=
  handReply { tag, type, answer := a, result := r } s

/-- A request is refused with a reason (R180). -/
def refuse (tag : Tag) (type : Byte) (why : Reason) (s : State) : State := answer tag type (.refused why) .none s

/-- The type code of the request that began a long operation (R178). -/
def longType : LongKind → Byte
  | .start => 0x08
  | .restore => 0x09
  | .pause => 0x0A
  | .abort => 0x0C

/-- The long operation in flight is answered and its entry is removed (R34). -/
def answerLong (a : Answer) (r : Result) (s : State) : State :=
  match s.session.longOp with
  | none => s
  | some op => answer op.tag (longType op.kind) a r { s with session := { s.session with longOp := none } }

/-- A tag is outstanding: a foreground request in the queue or the long operation in flight holds it (R177). -/
def tagOutstanding (s : State) (tag : Tag) : Bool :=
  s.queue.any (·.tag = tag) || s.session.longOp.any (·.tag = tag)

/-! ## The bytes of the records the part sends -/

/-- The status code of a reply (R180). -/
def statusCode : Answer → Nat
  | .done => 1
  | .lostData _ => 2
  | .unrecoverable => 3
  | .writeIncomplete => 4
  | .overtaken => 5
  | .targetLost => 6
  | .refused _ => 7

/-- The code of a refusal's reason (R180). -/
def reasonCode : Reason → Nat
  | .unknown => 1
  | .malformed => 2
  | .tagInUse => 3
  | .queueFull => 4
  | .state => 5
  | .busy => 6
  | .range _ => 7
  | .span => 8
  | .invalidPlan _ => 9
  | .noLink _ => 10
  | .lostStripe => 11
  | .arrayHalted => 12
  | .limitBelowCount => 13
  | .noCheckpoint => 14
  | .staleCheckpoint => 15
  | .checkpointClosed => 16

/-- The detail of a refusal: field number, check number or channel (section 11.1). -/
def reasonDetail : Reason → Nat
  | .range f => f
  | .invalidPlan c => c
  | .noLink c => c
  | _ => 0

/-- The sixteen bytes that open a reply body (section 11.1). -/
def replyHeader (r : Reply) : List Byte :=
  let reason := match r.answer with | .refused why => reasonCode why | _ => 0
  let detail := match r.answer with | .refused why => reasonDetail why | _ => 0
  let lba := match r.answer with | .lostData a => a | _ => 0
  bigEndian 1 (statusCode r.answer) ++ bigEndian 1 reason ++ bigEndian 2 detail ++ [r.type] ++ bigEndian 3 0 ++ bigEndian 8 lba

/-- Bytes cut or filled with zeros to a length. -/
def fitBytes (n : Nat) (bs : List Byte) : List Byte := (bs ++ List.replicate n 0).take n

/-- The body of a reply (section 11.1): header, short result, long result; a query's contents stand in the order of its rule (R179). -/
def replyBody (r : Reply) : List Byte :=
  match r.result with
  | .none => replyHeader r ++ fitBytes 48 []
  | .blocks bs => replyHeader r ++ fitBytes 48 [] ++ bs.flatMap bytesOfBlock
  | .identify i c => replyHeader r ++ fitBytes 48 (Config.resultBytes (.identify i c))
  | .restored slot q m limit d p e n => replyHeader r ++ fitBytes 48 (Config.resultBytes (.restored slot q m limit d p e n))
  | .stale v w => replyHeader r ++ fitBytes 48 (Config.resultBytes (.stale v w))
  | other => replyHeader r ++ fitBytes 48 [] ++ (contents other).flatMap Config.fieldBytes

/-- The body of a notice (section 11.1). -/
def noticeBody (n : Notice) : List Byte :=
  bigEndian 1 ((kindIndex n.kind).val + 1) ++ bigEndian 1 n.subject ++ bigEndian 2 n.count ++ fitBytes 28 (Config.valueBytes n.value)

/-- The frame the sender sends for a record, with its check (R173, R174). -/
def outFrame : OutRecord → List Byte
  | .reply r => frame 0x80 r.tag (replyBody r)
  | .notice n => frame 0x81 0 (noticeBody n)

/-! ## Requests found in bytes -/

/-- Whether the body of a request parses for its type (R176, check 4). A WRITE-BLOCKS body parses when its block list holds exactly count
blocks and its length is one a frame may carry; a COMMIT that names no group does not parse (R21). -/
def parses : Request → Bool
  | .identify b | .querySession b | .queryPlan b | .queryChannels b | .queryRate b | .queryMonitors b => b.isSome
  | .start b | .restore b | .pause b | .continueSession b | .abort b | .release b => b.isSome
  | .stageArray b => b.isSome
  | .stagePolicy b => b.isSome
  | .stageWindow b => b.isSome
  | .commit b => b.any fun g => g.array || g.policy || g.windows
  | .queryExtents b | .queryLosses b => b.isSome
  | .setRate b => b.isSome
  | .setMonitor b => b.isSome
  | .readBlocks b => b.isSome
  | .writeBlocks b => b.any fun w => w.blocks.length = w.count.toNat && decide (w.count.toNat ≤ 32)
  | .queryUnknown => false
  | .reset => true
  | .unknown _ => true

/-- The body of a request whose body is empty (R178). -/
def emptyBody (bs : List Byte) : Option Unit := if bs = [] then some () else none

/-- The body of a READ-BLOCKS by its layout (section 11.1). -/
def readBody (bs : List Byte) : Option RunFields :=
  if bs.length = 16 then
    some { lba := BitVec.ofNat 64 (bytesToNat (bs.take 8)), count := BitVec.ofNat 16 (bytesToNat ((bs.drop 8).take 2)) }
  else none

/-- The body of a WRITE-BLOCKS by its layout: its length is 16 plus the count times 4096 (section 11.1, R176). -/
def writeBody (bs : List Byte) : Option WriteFields :=
  let count := bytesToNat ((bs.drop 8).take 2)
  if bs.length = 16 + count * 4096 then
    some
      { lba := BitVec.ofNat 64 (bytesToNat (bs.take 8)), count := BitVec.ofNat 16 count
        blocks := blocksOfBytes (bs.drop 16) }
  else none

/-- The request a QUERY asks, by its subject (R179). -/
def queryOf : Option QuerySubject → Request
  | some .session => .querySession (some ())
  | some .plan => .queryPlan (some ())
  | some (.extents q) => .queryExtents (some q)
  | some (.losses q) => .queryLosses (some q)
  | some .channels => .queryChannels (some ())
  | some .rate => .queryRate (some ())
  | some .monitors => .queryMonitors (some ())
  | none => .queryUnknown

/-- The request that a record with a right check carries, by its type and body (R178). -/
def requestOf (type : Byte) (body : List Byte) : Request :=
  if type = 0x01 then .identify (emptyBody body)
  else if type = 0x02 then .reset
  else if type = 0x03 then .stageArray (Config.parseArray body)
  else if type = 0x04 then .stagePolicy (Config.parsePolicy body)
  else if type = 0x05 then .stageWindow (Config.parseWindow body)
  else if type = 0x06 then .commit (Config.parseGroups body)
  else if type = 0x07 then queryOf (Config.parseQuery body)
  else if type = 0x08 then .start (emptyBody body)
  else if type = 0x09 then .restore (emptyBody body)
  else if type = 0x0A then .pause (emptyBody body)
  else if type = 0x0B then .continueSession (emptyBody body)
  else if type = 0x0C then .abort (emptyBody body)
  else if type = 0x0D then .release (emptyBody body)
  else if type = 0x0E then .setRate (Config.parseLevel body)
  else if type = 0x0F then .setMonitor (Config.parseMonitor body)
  else if type = 0x10 then .readBlocks (readBody body)
  else if type = 0x11 then .writeBlocks (writeBody body)
  else .unknown type

/-- The body that opens a READ-BLOCKS and a WRITE-BLOCKS: first LBA, count, six zero bytes (section 11.1). -/
def runBytes (lba : BitVec 64) (count : BitVec 16) : List Byte :=
  bigEndian 8 lba.toNat ++ bigEndian 2 count.toNat ++ List.replicate 6 0

/-- The request types whose bodies the manual does not lay out: the STAGE requests, COMMIT, QUERY, SET-RATE and SET-MONITOR (R178, log
entry 3). -/
def openBody (type : Byte) : Bool := [0x03#8, 0x04#8, 0x05#8, 0x06#8, 0x07#8, 0x0E#8, 0x0F#8].contains type

/-- Open bytes for the body of a request, no more than a frame may carry (R173, log entry 41). -/
def openBytes (r : Request) : List Byte := (Config.bodyBytes r).take Config.maxBody

/-- A body that does not parse for a type whose layout is known: open bytes, with one behind them where they would parse (R176, check 4,
log entry 41). -/
def malformedBody (r : Request) : List Byte :=
  if parses (requestOf (typeCode r) (openBytes r)) then openBytes r ++ [Config.surplusByte r] else openBytes r

/-- The body that a request carries: laid out where the manual lays it out (section 11.1, R178), and elsewhere open, but for a body that
does not parse by a layout that is known (log entry 41). -/
def bodyBytes : Request → List Byte
  | .identify (some ()) | .start (some ()) | .restore (some ()) | .pause (some ()) | .continueSession (some ()) | .abort (some ())
  | .release (some ()) => []
  | .readBlocks (some f) => runBytes f.lba f.count
  | .writeBlocks (some f) => runBytes f.lba f.count ++ f.blocks.flatMap bytesOfBlock
  | r => if parses r || openBody (typeCode r) then openBytes r else malformedBody r

/-- The request that a record found in bytes carries. Where the manual lays the body out, the type and the body alone decide it (R176,
R178). Where it does not, a request whose bytes the receiver has gathered itself is that request again (log entry 41). -/
def requestFrom (carried : List Request) (type : Byte) (body : List Byte) : Request :=
  if openBody type then (carried.find? fun r => typeCode r = type && bodyBytes r = body).getD (requestOf type body)
  else requestOf type body

end Sys2Proof.Machine
end

