-- ==== Sys2Proof/Machine/Flags.lean ====
section
/-! DEFINITION. The flags and marks of the part, and the conditions they stand for: the session's conditions, the hold-waiting flag, a
pending lowering, the conditions of a lock mode. -/

namespace Sys2Proof.Machine
open Sys2Proof

/-! ## The session state (section 3.1) -/

/-- The session is RUNNING, with or without the closing mark. -/
def isRunning : SessionState → Bool
  | .running _ => true
  | _ => false

/-- The session is PAUSING. -/
def isPausing : SessionState → Bool
  | .pausing _ => true
  | _ => false

/-- The session is HALTED. -/
def isHalted : SessionState → Bool
  | .halted _ => true
  | _ => false

/-- The spare is in use: RUNNING, PAUSING, PAUSED, LOSS-STOP (R12). -/
def spareInUse : SessionState → Bool
  | .running _ | .pausing _ | .paused | .lossStop => true
  | _ => false

/-- STARTING, or a state in which the spare is in use: the states that a failed channel ends (R48, R49) and in which HOLD-WAITING is
raised (R71). -/
def sessionLive : SessionState → Bool
  | .starting => true
  | st => spareInUse st

/-- The states in which foreground requests are accepted (R53). -/
def takesForeground : SessionState → Bool
  | .idle | .starting | .restoring | .draining => false
  | _ => true

/-! ## Extent records -/

/-- A PENDING or PARTIAL extent. -/
def ExtentRec.waits (r : ExtentRec) : Bool :=
  match r.state with
  | .pending | .partDone _ => true
  | _ => false

/-- An ACTIVE extent. -/
def ExtentRec.isActive (r : ExtentRec) : Bool :=
  match r.state with
  | .active _ _ => true
  | _ => false

/-- A DONE extent. -/
def ExtentRec.isDone (r : ExtentRec) : Bool := r.state = .done

/-- A candidate for a claim (R61). -/
def ExtentRec.isCandidate (r : ExtentRec) : Bool := r.waits && r.cls ≠ .hold

/-- A candidate exists (R92). -/
def candidateExists (t : ExtentTable) : Bool := t.extents.any (·.isCandidate)

/-- The condition of the hold-waiting flag: some extent is PENDING or PARTIAL, none is ACTIVE and none is a candidate (R71). -/
def holdCondition (t : ExtentTable) : Bool :=
  t.extents.any (·.waits) && !t.extents.any (·.isActive) && !candidateExists t

/-- The number of held extents (R71). -/
def heldExtents (t : ExtentTable) : Nat := t.extents.countP (·.waits)

/-- The hold-waiting flag is evaluated: set with the notice HOLD-WAITING, or cleared without one (R71). -/
def evalHold (s : State) : State :=
  if holdCondition s.table then
    if s.table.holdWaiting then s
    else
      let s' := { s with table := { s.table with holdWaiting := true } }
      if sessionLive s.session.state then raiseNotice .holdWaiting 255 (.held (heldExtents s.table)) s' else s'
  else { s with table := { s.table with holdWaiting := false } }

/-! ## Rate governor -/

/-- A lowering is pending: the effective level exceeds T (R91, R92). -/
def loweringPending (g : Governor) : Bool := g.target < g.effective

/-! ## Locks -/

/-- A mode may be held together with another holder's mode (R99). -/
def modesAgree : LockMode → LockMode → Bool
  | .shared, .shared => true
  | .shared, .rebuild => true
  | .rebuild, .shared => true
  | _, _ => false

/-- A mode is compatible with a holder list (R99). -/
def compatible (m : LockMode) (holders : List LockPair) : Bool := holders.all fun h => modesAgree m h.mode

end Sys2Proof.Machine
end

