-- ==== Sys2Proof/Machine/Monitors.lean ====
section
/-! DEFINITION. The activity monitors: which events a monitor counts, the count, the overflow (R166 to R170). -/

namespace Sys2Proof.Machine
open Sys2Proof

/-- Whether an event carries a channel that the mask judges (R168). -/
def maskApplies : EventKind → Bool
  | .memberRetry | .memberTimeout => true
  | _ => false

/-- The monitor's mask passes the event (R168). -/
def maskPasses (m : Monitor) (e : EventKind) (c : Option Chan) : Bool :=
  !maskApplies e || c.any fun c => m.mask.getLsbD c.val

/-- The monitor's filter passes in the session state (R168). -/
def filterPasses (m : Monitor) (st : SessionState) : Bool := m.filter = .always || isRunning st

/-- The monitor counts the event (R168). -/
def monitorCounts (m : Monitor) (e : EventKind) (c : Option Chan) (st : SessionState) : Bool :=
  m.enable && m.event = e && maskPasses m e c && filterPasses m st

/-- The action tells the host on overflow (R170). -/
def actionNotifies : Action → Bool
  | .notice | .both => true
  | _ => false

/-- The action signals the rate governor on overflow (R170). -/
def actionGoverns : Action → Bool
  | .govern | .both => true
  | _ => false

/-- The rate governor is signalled: the signal is handed over (R170, R93). -/
def signalGovernor (s : State) : State := { s with mail := { s.mail with signals := s.mail.signals + 1 } }

/-- Monitor i takes its action for an overflow (R170). -/
def overflow (i : Fin 4) (s : State) : State :=
  let m := s.monitors[i]
  let s1 := if actionNotifies m.action then raiseNotice .monitorOverflow i.val (.event m.event) s else s
  if actionGoverns m.action then signalGovernor s1 else s1

/-- Monitor i takes an offered event (R168, R169). -/
def offerEvent (e : EventKind) (c : Option Chan) (i : Fin 4) (s : State) : State :=
  let m := s.monitors[i]
  if monitorCounts m e c s.session.state then
    let s1 := { s with monitors := s.monitors.set i { m with count := m.count + 1 } }
    if m.count = 0xFFFFFFFF#32 then overflow i s1 else s1
  else s

/-- A block raises an event: it is offered to each of the four monitors (R167), to 0 first and to 3 last (log entry 32). -/
def raiseEvent (e : EventKind) (c : Option Chan) (s : State) : State :=
  offerEvent e c 3 (offerEvent e c 2 (offerEvent e c 1 (offerEvent e c 0 s)))

end Sys2Proof.Machine
end

