-- ==== Sys2Proof/Machine/Extents.lean ====
section
/-! DEFINITION. The extent table: classes, claims, cursors, the ahead set, the rebuilt answer, the capture (chapter 4). -/

namespace Sys2Proof.Machine
open Sys2Proof

/-- The extent matches the window (R59). -/
def windowMatches (w : Window) (x : Nat) : Bool := w.enable && (BitVec.ofNat 12 x &&& w.mask) = (w.base &&& w.mask)

/-- The class of an extent: that of the lowest-numbered enabled window it matches, else NORMAL (R59). -/
def classOf (ws : Vector Window 8) (x : Nat) : ExtClass :=
  match ws.toList.find? fun w => windowMatches w x with
  | some w => w.cls
  | none => .normal

/-- The records START creates (R57). -/
def freshExtents (g : ArrayGroup) (ws : Vector Window 8) : List ExtentRec :=
  (List.range (extentCount g)).map fun x => { state := .pending, cls := classOf ws x }

/-- The class of every record is derived from new windows (R60). -/
def reclassify (ws : Vector Window 8) (es : List ExtentRec) : List ExtentRec :=
  es.zipIdx.map fun p => { p.1 with cls := classOf ws p.2 }

/-- The four counts of R56. -/
def extentCounts (t : ExtentTable) : ExtentCounts :=
  { pending := t.extents.countP fun r => r.state = .pending
    active := t.extents.countP (·.isActive)
    partDone := t.extents.countP fun r => r.waits && r.state ≠ .pending
    done := t.extents.countP (·.isDone) }

/-- Every extent is DONE: the DONE count equals X (R45, R56). -/
def allDone (t : ExtentTable) : Bool := t.extents.all (·.isDone)

/-- The cursor of a record; a PENDING extent counts as cursor 0 (R68). -/
def ExtentRec.cursor (r : ExtentRec) : Option Nat :=
  match r.state with
  | .pending => some 0
  | .active c _ => some c
  | .partDone c => some c
  | .done => none

/-- The rebuilt answer (R14). -/
def isRebuilt (g : ArrayGroup) (t : ExtentTable) (stripe : Nat) : Bool :=
  t.ahead.contains stripe ||
    match t.extents[stripe / g.extentSize]? with
    | none => false
    | some r =>
      match r.state with
      | .done => true
      | .active c _ => stripe % g.extentSize < c
      | .partDone c => stripe % g.extentSize < c
      | .pending => false

/-- The rank of a candidate: class first, then state (R61). -/
def claimRank (r : ExtentRec) : Nat :=
  (match r.cls with | .first => 0 | .normal => 2 | .last => 4 | .hold => 6) + (if r.state = .pending then 1 else 0)

/-- The first candidate in the order of R61: class, state, index. -/
def firstCandidate (es : List ExtentRec) : Option Nat :=
  (es.zipIdx.foldl (fun best p =>
    if p.1.isCandidate then
      match best with
      | none => some (p.2, claimRank p.1)
      | some q => if claimRank p.1 < q.2 then some (p.2, claimRank p.1) else best
    else best) none).map Prod.fst

/-- One record of the table is replaced. -/
def setExtent (x : Nat) (r : ExtentRec) (s : State) : State :=
  { s with table := { s.table with extents := s.table.extents.set x r } }

/-- The extent table takes a claim of a lane (R62, R63). -/
def takeClaim (g : ArrayGroup) (l : Lane) (s : State) : Option (Nat × Nat × Nat) × State :=
  if isRunning s.session.state || isPausing s.session.state then
    match firstCandidate s.table.extents with
    | none => (none, evalHold s)
    | some x =>
      match s.table.extents[x]? with
      | none => (none, s)
      | some r =>
        let c := r.cursor.getD 0
        (some (x, c, extentLength g x), setExtent x { r with state := .active c l } s)
  else (none, s)

/-- The checkpoint writer is handed a trigger (R66). -/
def handTrigger (s : State) : State := { s with mail := { s.mail with triggers := s.mail.triggers + 1 } }

/-- An extent is finished: DONE, a trigger for the checkpoint writer, the notice EXTENT-DONE, the hold-waiting flag (R66). -/
def finishExtent (x : Nat) (s : State) : State :=
  match s.table.extents[x]? with
  | none => s
  | some r => evalHold (raiseNotice .extentDone 255 (.extent x) (handTrigger (setExtent x { r with state := .done } s)))

/-- The cursor of an ACTIVE extent rises by 1 and the stripe it passed leaves the ahead set; at its length the extent is finished
(R64). The answer tells whether the extent is finished. -/
def advanceCursor (g : ArrayGroup) (x : Nat) (s : State) : Bool × State :=
  match s.table.extents[x]? with
  | none => (false, s)
  | some r =>
    match r.state with
    | .active c l =>
      let s1 := setExtent x { r with state := .active (c + 1) l } s
      let s2 := { s1 with table := { s1.table with ahead := s1.table.ahead.erase (x * g.extentSize + c) } }
      if c + 1 = extentLength g x then (true, finishExtent x s2) else (false, s2)
    | _ => (false, s)

/-- A stripe goes to its place in ascending order (R69). -/
def insertStripe (n : Nat) : List Nat → List Nat
  | [] => [n]
  | m :: rest => if n < m then n :: m :: rest else if n = m then m :: rest else m :: insertStripe n rest

/-- A written stripe is added to the ahead set, if it may be (R69, R70). -/
def addAhead (g : ArrayGroup) (stripe : Nat) (s : State) : State :=
  if spareInUse s.session.state && !isRebuilt g s.table stripe && s.table.ahead.length < Config.aheadRoom then
    { s with table := { s.table with ahead := insertStripe stripe s.table.ahead } }
  else s

/-- An ACTIVE extent is released: PARTIAL with its cursor, then the hold-waiting flag (R67). -/
def releaseRecord (x : Nat) (s : State) : State :=
  match s.table.extents[x]? with
  | none => s
  | some r =>
    match r.state with
    | .active c _ => evalHold (setExtent x { r with state := .partDone c } s)
    | _ => s

end Sys2Proof.Machine
end

