-- ==== Sys2Proof/Machine/Governor.lean ====
section
/-! DEFINITION. The rate governor and the admission of lanes (R90 to R94), and the release of an extent, which may wake lanes (R67). -/

namespace Sys2Proof.Machine
open Sys2Proof

/-- A lane's record is replaced. -/
def setLane (l : Lane) (r : LaneRec) (s : State) : State := { s with lanes := s.lanes.set l r }

/-- A lane is working: its state is not PARKED (R76). -/
def LaneRec.working (r : LaneRec) : Bool := r.state ≠ .parked

/-- The number of working lanes (R77). -/
def workingLanes (ls : Vector LaneRec 4) : Nat := (List.finRange 4).countP fun l => ls[l].working

/-- The number of working lanes numbered at or below a lane (R86). -/
def workingUpTo (ls : Vector LaneRec 4) (l : Lane) : Nat := (List.finRange 4).countP fun k => k ≤ l && ls[k].working

/-- The lowest-numbered PARKED lane (R92). -/
def lowestParked (ls : Vector LaneRec 4) : Option Lane := (List.finRange 4).find? fun l => !ls[l].working

/-- T = min(commanded, ceiling, G) (R90). -/
def targetLevel (s : State) : Nat := min s.governor.commanded (min s.plan.policy.ceiling s.governor.limit)

/-- The four conditions under which the lane engine admits a parked lane (R92). -/
def admits (s : State) : Bool :=
  isRunning s.session.state && workingLanes s.lanes < s.governor.effective && !loweringPending s.governor
    && candidateExists s.table

/-- A lane enters CLAIMING and asks the extent table for an extent (R87). -/
def claimLane (l : Lane) (s : State) : State :=
  let s1 := setLane l { LaneRec.parked with state := .claiming } s
  { s1 with mail := { s1.mail with claims := s1.mail.claims ++ [l] } }

/-- One lane is woken, if one may be (R92). -/
def wakeOne (s : State) : State :=
  if admits s then
    match lowestParked s.lanes with
    | some l => claimLane l s
    | none => s
  else s

/-- The lane engine wakes lanes one at a time until a condition fails or no lane is PARKED (R92). There are four lanes. -/
def wakeLanes (s : State) : State := wakeOne (wakeOne (wakeOne (wakeOne s)))

/-- The effective level changes and RATE-CHANGED is raised (R91). -/
def setEffective (n : Nat) (s : State) : State :=
  raiseNotice .rateChanged 255 (.level n) { s with governor := { s.governor with effective := n } }

/-- T is recomputed and compared with the effective level (R91). Lanes are woken when the effective level rises and when a lowering
ends (R92). -/
def retarget (s : State) : State :=
  let t := targetLevel s
  let wasPending := loweringPending s.governor
  let s1 := { s with governor := { s.governor with target := t } }
  if s.governor.effective < t then wakeLanes (setEffective t s1)
  else if s.governor.effective = t then if wasPending then wakeLanes s1 else s1
  else if workingLanes s.lanes ≤ t then wakeLanes (setEffective t s1)
  else s1

/-- The rate governor takes a park report: while a lowering is pending, the first report that brings the working lanes to T or below
makes the effective level T (R91). -/
def takeParkReport (s : State) : State :=
  if loweringPending s.governor && workingLanes s.lanes ≤ s.governor.target then
    wakeLanes (setEffective s.governor.target s)
  else s

/-- The rate governor takes a signal: G falls by one, not below 1, the quiet timer starts afresh, T is recomputed (R93). -/
def takeSignal (s : State) : State :=
  retarget { s with
    governor := { s.governor with
      limit := max 1 (s.governor.limit - 1)
      quiet := some (s.now + s.plan.policy.quietS * 1000) } }

/-- The quiet timer expires: G rises by one, not above 4; the timer starts afresh below 4 and stops at 4; T is recomputed (R94). -/
def quietExpires (s : State) : State :=
  let g := min 4 (s.governor.limit + 1)
  retarget { s with
    governor := { s.governor with
      limit := g
      quiet := if g < 4 then some (s.now + s.plan.policy.quietS * 1000) else none } }

/-- The extent table releases an extent, and parked lanes may be woken (R67, R92). -/
def releaseExtent (x : Nat) (s : State) : State := wakeLanes (releaseRecord x s)

end Sys2Proof.Machine
end

