-- ==== Sys2Proof/Machine/Locks.lean ====
section
/-! DEFINITION. The stripe lock manager: requests, FIFO service, releases, withdrawals (R98 to R102). -/

namespace Sys2Proof.Machine
open Sys2Proof

/-- FIFO service from the head: what remains waiting, the holders, and the operations granted, in order (R101). -/
def serveFifo : List LockPair → List LockPair → List LockPair × List LockPair × List OpName
  | holders, [] => (holders, [], [])
  | holders, w :: rest =>
    if compatible w.mode holders then
      let (h, q, granted) := serveFifo (holders ++ [w]) rest
      (h, q, w.op :: granted)
    else (holders, w :: rest, [])

/-- An entry after service. -/
def servedEntry (e : LockEntry) : LockEntry :=
  let r := serveFifo e.holders e.waiters
  { e with holders := r.1, waiters := r.2.1 }

/-- The operations that service grants. -/
def servedOps (e : LockEntry) : List OpName := (serveFifo e.holders e.waiters).2.2

/-- The entry of a stripe, if it is in use. -/
def lockEntry? (ls : List LockEntry) (stripe : Nat) : Option LockEntry := ls.find? fun e => e.stripe = stripe

/-- The entry of a stripe is replaced; one with neither holder nor waiter goes out of use (R98). -/
def putEntry (e : LockEntry) (ls : List LockEntry) : List LockEntry :=
  if e.holders = [] ∧ e.waiters = [] then ls.filter fun f => f.stripe ≠ e.stripe
  else ls.map fun f => if f.stripe = e.stripe then e else f

/-- A request joined a FIFO: a foreground operation raises FG-LOCK-WAIT, a lane nothing (R100). -/
def lockWaitEvent (op : OpName) (s : State) : State :=
  match op with
  | .fg _ => raiseEvent .fgLockWait none s
  | .lane _ => s

/-- The lock manager takes a request. The answer tells whether the lock is granted at once (R100). -/
def requestLock (op : OpName) (mode : LockMode) (stripe : Nat) (s : State) : Bool × State :=
  match lockEntry? s.locks stripe with
  | none => (true, { s with locks := s.locks ++ [{ stripe, holders := [⟨op, mode⟩], waiters := [] }] })
  | some e =>
    if e.waiters = [] ∧ compatible mode e.holders then
      (true, { s with locks := putEntry { e with holders := e.holders ++ [⟨op, mode⟩] } s.locks })
    else
      (false, lockWaitEvent op { s with locks := putEntry { e with waiters := e.waiters ++ [⟨op, mode⟩] } s.locks })

/-- An entry is served and put back; each grant is handed to its operation (R101). -/
def serveEntry (e : LockEntry) (s : State) : State :=
  { s with
    locks := putEntry (servedEntry e) s.locks
    mail := { s.mail with grants := s.mail.grants ++ servedOps e } }

/-- An operation releases its lock on a stripe, and the entry's FIFO is served (R101). -/
def releaseLock (op : OpName) (stripe : Nat) (s : State) : State :=
  match lockEntry? s.locks stripe with
  | none => s
  | some e => serveEntry { e with holders := e.holders.filter fun h => h.op ≠ op } s

/-- An operation's waiting request is withdrawn, and the entry's FIFO is served (R102). An operation that service has granted already
holds the lock, and releases it as a holder. -/
def withdrawLock (op : OpName) (stripe : Nat) (s : State) : State :=
  match lockEntry? s.locks stripe with
  | none => s
  | some e =>
    let e' := { e with holders := e.holders.filter fun h => h.op ≠ op, waiters := e.waiters.filter fun w => w.op ≠ op }
    let s1 := serveEntry e' s
    { s1 with mail := { s1.mail with grants := s1.mail.grants.erase op } }

end Sys2Proof.Machine
end

