-- ==== Sys2Proof/Machine/Buffers.lean ====
section
/-! DEFINITION. The buffer arbiter: reservation, release, withdrawal and the two-class wait queue (R104 to R109). -/

namespace Sys2Proof.Machine
open Sys2Proof

/-- Buffers are moved from free to reserved. Which free ones is the arbiter's choice, without effect outside (R104): the first ones of
the free list (log entry 5). -/
def reserve (r : BufferRequest) (p : BufferPool) : BufferPool :=
  { p with free := p.free.drop r.count, held := p.held ++ [{ op := r.op, ids := p.free.take r.count }] }

/-- The request fits the free buffers. -/
def fits (r : BufferRequest) (p : BufferPool) : Bool := r.count ≤ p.free.length

/-- Service of one class from its head: the operations reserved in order, and the pool with what still waits (R107). -/
def serveClass : List BufferRequest → BufferPool → List OpName × List BufferRequest × BufferPool
  | [], p => ([], [], p)
  | r :: rest, p =>
    if fits r p then
      let (ops, q, p') := serveClass rest (reserve r p)
      (r.op :: ops, q, p')
    else ([], r :: rest, p)

/-- Service of the wait queue: the foreground class, and the lane class when the foreground class is empty (R107). -/
def servePool (p : BufferPool) : List OpName × BufferPool :=
  let (ops, fg, p1) := serveClass p.fgWait p
  if fg = [] then
    let (ops2, ln, p2) := serveClass p.laneWait p1
    (ops ++ ops2, { p2 with fgWait := [], laneWait := ln })
  else (ops, { p1 with fgWait := fg })

/-- The reservations made are handed to their operations (R106, R107). -/
def serveQueue (s : State) : State :=
  let r := servePool s.pool
  { s with pool := r.2, mail := { s.mail with reservations := s.mail.reservations ++ r.1 } }

/-- The arbiter takes a request of the foreground class or of the lane class. It is reserved at once or joins its class with the event
BUFFER-WAIT; the reservation is handed to the operation (R106). -/
def requestBuffers (r : BufferRequest) (s : State) : State :=
  match r.op with
  | .fg _ =>
    if s.pool.fgWait = [] ∧ fits r s.pool then
      { s with pool := reserve r s.pool, mail := { s.mail with reservations := s.mail.reservations ++ [r.op] } }
    else raiseEvent .bufferWait none { s with pool := { s.pool with fgWait := s.pool.fgWait ++ [r] } }
  | .lane _ =>
    if s.pool.fgWait = [] ∧ s.pool.laneWait = [] ∧ fits r s.pool then
      { s with pool := reserve r s.pool, mail := { s.mail with reservations := s.mail.reservations ++ [r.op] } }
    else raiseEvent .bufferWait none { s with pool := { s.pool with laneWait := s.pool.laneWait ++ [r] } }

/-- The buffers an operation holds. -/
def heldBy (op : OpName) (p : BufferPool) : List Nat := (p.held.filter fun h => h.op = op).flatMap (·.ids)

/-- An operation's buffers return to the pool, and the wait queue is served (R107). -/
def releaseBuffers (op : OpName) (s : State) : State :=
  serveQueue { s with
    pool := { s.pool with free := s.pool.free ++ heldBy op s.pool, held := s.pool.held.filter fun h => h.op ≠ op } }

/-- A lane's waiting buffer request is withdrawn, and the wait queue is served (R109). A lane that service has reserved for already
holds its buffers, and releases them. -/
def withdrawBuffers (l : Lane) (s : State) : State :=
  releaseBuffers (.lane l) { s with
    pool := { s.pool with laneWait := s.pool.laneWait.filter fun r => r.op ≠ .lane l }
    mail := { s.mail with reservations := s.mail.reservations.erase (.lane l) } }

end Sys2Proof.Machine
end

