-- ==== Sys2Proof/Machine/Channels.lean ====
section
/-! DEFINITION. The channel unit: commands, issue, endings, error counts, the FAILED declaration, orphans (R134 to R146). -/

namespace Sys2Proof.Machine
open Sys2Proof

/-- A channel's record is replaced. -/
def setChan (c : Chan) (r : ChannelRec) (s : State) : State := { s with chans := s.chans.set c r }

/-- The two classes of a channel's pending FIFO (R136). -/
inductive CmdClass where
  | foreground | rebuild
deriving DecidableEq, Repr

/-- An ending is handed to its issuer (R138, R139, R144). -/
def handEnding (c : Chan) (cmd : StripCmd) (e : EndStatus) (s : State) : State :=
  { s with mail := { s.mail with endings := s.mail.endings ++ [{ chan := c, cmd, status := e }] } }

/-- A command joins the tail of its class (R136). -/
def enqueue (cls : CmdClass) (cmd : StripCmd) (r : ChannelRec) : ChannelRec :=
  match cls with
  | .foreground => { r with fgPending := r.fgPending ++ [cmd] }
  | .rebuild => { r with rebuildPending := r.rebuildPending ++ [cmd] }

/-- An operation hands the channel unit a command (R136). On a FAILED channel it ends at once with MEMBER-FAILED; otherwise it is
pending, and its issue is the command COMMAND_ISSUE or a later service of the channel (log entry 6). -/
def handCommand (c : Chan) (cls : CmdClass) (cmd : StripCmd) (s : State) : State :=
  let r := s.chans[c]
  if r.failed then handEnding c cmd .memberFailed s else setChan c (enqueue cls cmd r) s

/-- The channel may issue (R137). -/
def mayIssue (r : ChannelRec) : Bool :=
  !r.failed && r.linkPresent && !r.resetAwaited && r.issued.length < Config.issueRoom

/-- The pending command that is issued next, with the record without it: the head of the foreground class, or of the rebuild class
when the foreground class is empty (R137). -/
def nextPending (r : ChannelRec) : Option (StripCmd × ChannelRec) :=
  match r.fgPending, r.rebuildPending with
  | c :: rest, _ => some (c, { r with fgPending := rest })
  | [], c :: rest => some (c, { r with rebuildPending := rest })
  | [], [] => none

/-- One command is issued: numbered, moved to the issue list, timed and sent (R137). -/
def issueOne (c : Chan) (s : State) : State :=
  let r := s.chans[c]
  if mayIssue r then
    match nextPending r with
    | some (cmd, r') =>
      let s1 := setChan c
        { r' with
          issued := r'.issued ++ [{ number := r'.next, cmd, expiry := s.now + s.plan.policy.timeoutMs }]
          next := r'.next + 1 } s
      { s1 with stripSent := s1.stripSent ++ [(c, .command r'.next cmd)] }
    | none => s
  else s

/-- The channel is served until a condition fails or both classes are empty (R137). At most four commands fit. -/
def serveChannel (c : Chan) (s : State) : State := issueOne c (issueOne c (issueOne c (issueOne c s)))

/-- The orphaned commands of a lane's abandoned stripe in the issue lists (R145). -/
def orphansOf (l : Lane) (s : State) : Nat :=
  ((List.finRange 16).map fun c => s.chans[c].issued.countP fun i => i.cmd.issuer = .orphan l).sum

/-- All orphaned commands that remain (R47, R51). -/
def orphanCount (s : State) : Nat :=
  ((List.finRange 16).map fun c =>
    s.chans[c].issued.countP fun i => match i.cmd.issuer with | .orphan _ => true | _ => false).sum

/-- When no orphan of a lane's abandoned stripe remains, its buffers are released (R89, R145). -/
def settleOrphans (l : Lane) (s : State) : State :=
  if orphansOf l s = 0 then releaseBuffers (.lane l) s else s

/-- A command that has left the channel ends: an orphan's result is discarded, any other is handed to its issuer (R139, R145). -/
def endCommand (c : Chan) (cmd : StripCmd) (e : EndStatus) (s : State) : State :=
  match cmd.issuer with
  | .orphan l => settleOrphans l s
  | _ => handEnding c cmd e s

/-- The session controller is told of a FAILED declaration, with the channel's role (R144). -/
def tellSession (c : Chan) (r : Role) (s : State) : State :=
  { s with mail := { s.mail with told := s.mail.told ++ [{ chan := c, role := r }] } }

/-- A channel is declared FAILED (R144): its condition, the ending of every issued and pending command, the notice MEMBER-FAILED, and
the word to the session controller. -/
def declareFailed (c : Chan) (cause : FailCause) (s : State) : State :=
  let r := s.chans[c]
  let cmds := r.issued.map (·.cmd) ++ r.fgPending ++ r.rebuildPending
  let s1 := setChan c { r with failed := true, issued := [], fgPending := [], rebuildPending := [] } s
  let s2 := cmds.foldl (fun t cmd => endCommand c cmd .memberFailed t) s1
  tellSession c r.role (raiseNotice .memberFailed c.val (.failCause cause) s2)

/-- A channel that is ONLINE is declared FAILED. -/
def declareIfOnline (c : Chan) (cause : FailCause) (s : State) : State :=
  if s.chans[c].failed then s else declareFailed c cause s

/-- An operation reports a failure it cannot carry (R142). -/
def reportFailure (c : Chan) (s : State) : State := declareIfOnline c .report s

/-- The name under which a notice gives a status. -/
def endName : EndStatus → StatusName
  | .good _ => .good
  | .medium _ _ _ => .medium
  | .rejected => .rejected
  | .timeout => .timeout
  | .memberFailed => .memberFailed

/-- The name under which a notice gives an adapter's status. -/
def stripName : StripStatus → StatusName
  | .good _ => .good
  | .medium _ _ _ => .medium
  | .rejected => .rejected
  | .linkDown => .linkDown

/-- A read that ended MEDIUM, REJECTED or TIMEOUT is counted, and the count may declare the channel FAILED (R140). -/
def countError (c : Chan) (e : EndStatus) (s : State) : State :=
  let n := min 255 (s.chans[c].errors + 1)
  let s1 := raiseNotice .memberError c.val (.memberError (endName e) n) (setChan c { s.chans[c] with errors := n } s)
  if s.plan.policy.errorLimit < n then declareIfOnline c .errors s1 else s1

/-- The channel unit judges an ending: a read by R140, a write by R141. -/
def judgeEnding (c : Chan) (cmd : StripCmd) (e : EndStatus) (s : State) : State :=
  match e with
  | .medium _ _ _ | .rejected | .timeout => if cmd.write then declareIfOnline c .write s else countError c e s
  | .good _ | .memberFailed => s

/-- A completion as the channel unit takes it for a command (R135): a MEDIUM range outside the command's range is the whole range, data
that does not hold the blocks its status calls for is REJECTED. A LINK-DOWN reaches its issuer as MEMBER-FAILED (R139). That the range is
judged first, and that data with more blocks than its status calls for is REJECTED too, is the model's choice (log entry 19). -/
def normalise (cmd : StripCmd) : StripStatus → EndStatus
  | .good bs => if cmd.write || bs.length = cmd.count then .good bs else .rejected
  | .medium first count bs =>
    if count = 0 || first < cmd.block || cmd.block + cmd.count < first + count then .medium 0 cmd.count []
    else if cmd.write || bs.length = cmd.count - count then .medium (first - cmd.block) count bs
    else .rejected
  | .rejected => .rejected
  | .linkDown => .memberFailed

/-- A link-down indication on a channel (R143). -/
def takeLinkDown (c : Chan) (s : State) : State :=
  let r := s.chans[c]
  let s1 := setChan c { r with linkPresent := false } s
  if r.role ≠ .unused then declareIfOnline c .link s1 else s1

/-- An unmatched completion is discarded and raises LATE-COMPLETION; an unmatched LINK-DOWN is still a link-down (R139). -/
def lateCompletion (c : Chan) (number : Word32) (st : StripStatus) (s : State) : State :=
  let s1 := raiseNotice .lateCompletion c.val (.lateCompletion number (stripName st)) s
  if st = .linkDown then takeLinkDown c s1 else s1

/-- The issued command of a number. -/
def issued? (r : ChannelRec) (number : Word32) : Option Issued := r.issued.find? fun i => i.number = number

/-- A command leaves the issue list, its timer with it. -/
def unissue (c : Chan) (i : Issued) (s : State) : State :=
  let r := s.chans[c]
  setChan c { r with issued := r.issued.erase i } s

/-- The channel unit takes a completion (R139). -/
def takeCompletion (c : Chan) (number : Word32) (st : StripStatus) (s : State) : State :=
  match issued? s.chans[c] number with
  | none => lateCompletion c number st s
  | some i =>
    let e := normalise i.cmd st
    let s1 := unissue c i s
    let s2 := if st = .linkDown then takeLinkDown c s1 else judgeEnding c i.cmd e s1
    endCommand c i.cmd e (serveChannel c s2)

/-- A command timer expires (R138). The clock is at the expiry, if it was not past it (log entry 7). A command that is not in the issue
list has no timer, and the expiry does not happen. -/
def takeTimeout (c : Chan) (number : Word32) (s : State) : State :=
  match issued? s.chans[c] number with
  | none => s
  | some i =>
    let s1 := raiseEvent .memberTimeout (some c) { unissue c i s with now := max s.now i.expiry }
    endCommand c i.cmd .timeout (serveChannel c (judgeEnding c i.cmd .timeout s1))

/-- A link indication answers the channel-reset indication, if one is awaited (R146). -/
def takeResetAnswer (c : Chan) (s : State) : State := setChan c { s.chans[c] with resetAwaited := false } s

/-- A command of a lane's abandoned stripe in the issue list becomes an orphan (R145). -/
def orphanIssued (l : Lane) (i : Issued) : Issued :=
  if i.cmd.issuer = .lane l then { i with cmd := { i.cmd with issuer := .orphan l } } else i

/-- The commands of a lane's abandoned stripe on one channel: a pending one is removed, an issued one becomes an orphan (R145). -/
def orphanChannel (l : Lane) (r : ChannelRec) : ChannelRec :=
  { r with
    issued := r.issued.map (orphanIssued l)
    fgPending := r.fgPending.filter fun c => c.issuer ≠ .lane l
    rebuildPending := r.rebuildPending.filter fun c => c.issuer ≠ .lane l }

/-- Every command of a lane's abandoned stripe is orphaned; endings on their way to the lane are discarded; the stripe's buffers are
released if no command of it remains (R89, R145). -/
def orphanCommands (l : Lane) (s : State) : State :=
  settleOrphans l { s with
    chans := s.chans.map (orphanChannel l)
    mail := { s.mail with endings := s.mail.endings.filter fun e => e.cmd.issuer ≠ .lane l } }

end Sys2Proof.Machine
end

