-- ==== Sys2Proof/Machine/Ops.lean ====
section
/-! DEFINITION. The operations several blocks share: taking what another block has handed over, changing the session state, the loss
list's questions. -/

namespace Sys2Proof.Machine
open Sys2Proof

/-! ## Taking what was handed over -/

/-- The first element that satisfies a test, with the list without it. -/
def takeFirst {α : Type} (p : α → Bool) : List α → Option (α × List α)
  | [] => none
  | a :: rest => if p a then some (a, rest) else (takeFirst p rest).map fun q => (q.1, a :: q.2)

/-- An issuer takes the first of its endings: of its reads or its writes, on one channel or on any. -/
def takeEnding (issuer : Issuer) (write : Bool) (c : Option Chan) (s : State) : Option (Ending × State) :=
  (takeFirst (fun e => e.cmd.issuer = issuer && e.cmd.write = write && c.all fun c => e.chan = c) s.mail.endings).map fun q =>
    (q.1, { s with mail := { s.mail with endings := q.2 } })

/-- An operation takes a grant made by FIFO service. -/
def takeGrant (op : OpName) (s : State) : Option State :=
  if s.mail.grants.contains op then some { s with mail := { s.mail with grants := s.mail.grants.erase op } } else none

/-- An operation takes its reservation. -/
def takeReservation (op : OpName) (s : State) : Option State :=
  if s.mail.reservations.contains op then some { s with mail := { s.mail with reservations := s.mail.reservations.erase op } }
  else none

/-! ## The session state -/

/-- The session state changes, and SESSION-STATE is raised (R54). -/
def setSession (st : SessionState) (s : State) : State :=
  raiseNotice .sessionState 255 (.session st) { s with session := { s.session with state := st } }

/-- A long operation becomes the one in flight (R34). -/
def beginLong (k : LongKind) (tag : Tag) (s : State) : State :=
  { s with session := { s.session with longOp := some { kind := k, tag } } }

/-- Every lane is PARKED. -/
def allParked (ls : Vector LaneRec 4) : Bool := (List.finRange 4).all fun l => !ls[l].working

/-! ## The loss list's questions (R152) -/

/-- The record of a stripe. -/
def lossOf (ls : List LossRec) (stripe : Nat) : Option LossRec := ls.find? fun r => r.stripe = stripe

/-- The range of a stripe's record: first and count. -/
def lossRange (ls : List LossRec) (stripe : Nat) : Option (Nat × Nat) := (lossOf ls stripe).map fun r => (r.first, r.count)

/-- A position lies in a range (R15). -/
def inRange (k : Nat) (r : Nat × Nat) : Bool := r.1 ≤ k && k < r.1 + r.2

/-! ## Blocks of a strip -/

/-- The blocks a read's last attempt returned, by position of its range: `none` in the bad range (R81, R118). -/
def spread (count bad badCount : Nat) (bs : List Block) : List (Option Block) :=
  (List.range count).map fun k =>
    if k < bad then bs[k]?
    else if k < bad + badCount then none
    else bs[k - badCount]?

end Sys2Proof.Machine
end

