-- ==== Sys2Proof/Machine/Operands.lean ====
section
/-! DEFINITION. The operands of requests: the range checks of the staging requests, SET-RATE and SET-MONITOR, in the order of their
rules, and the groups the checked fields make. Each check answers the number of the first field out of range, counted from 1. -/

namespace Sys2Proof.Machine
open Sys2Proof

/-- A number lies in a range. -/
def within (lo n hi : Nat) : Bool := lo ≤ n ∧ n ≤ hi

/-- The range checks of STAGE-ARRAY, in table order (R17). -/
def arrayField (g : ArrayGroup) : Option Nat :=
  firstFailing [
    (1, within 3 g.members 16),
    (2, knownStrip g.stripKiB),
    (3, within 1 g.stripes 268435456),
    (4, within 256 g.extentSize 65536),
    (5, within 0 g.failedSlot 15),
    (6, g.slotMap.length = g.members ∧ g.slotMap.all (· < 16)),
    (7, within 0 g.spare 15),
    (8, within 0 g.epoch 4294967295),
    (9, true)]

/-- The checks of the class entries, numbered from 9: a coded value, and URGENT for READY (R18). -/
def classChecks (f : PolicyFields) : List (Nat × Bool) :=
  (List.finRange 13).map fun i => (9 + i.val, f.classes[i].any fun c => i ≠ kindIndex .ready || c = .urgent)

/-- The checks of the silence entries, numbered from 22: a coded value, and no for READY (R18). -/
def silenceChecks (f : PolicyFields) : List (Nat × Bool) :=
  (List.finRange 13).map fun i => (22 + i.val, f.silences[i].any fun b => i ≠ kindIndex .ready || !b)

/-- The range checks of STAGE-POLICY, in table order (R18). -/
def policyField (f : PolicyFields) : Option Nat :=
  firstFailing ([
    (1, within 0 f.retryLimit 7),
    (2, within 1 f.errorLimit 255),
    (3, within 10 f.timeoutMs 60000),
    (4, within 1 f.latencyMs 10000),
    (5, within 1 f.lossLimit 256),
    (6, within 10 f.periodS 3600),
    (7, within 0 f.ceiling 4),
    (8, within 1 f.quietS 600)] ++ classChecks f ++ silenceChecks f)

/-- The POLICY group that fields in range make. -/
def policyGroup (f : PolicyFields) : PolicyGroup :=
  { retryLimit := f.retryLimit, errorLimit := f.errorLimit, timeoutMs := f.timeoutMs, latencyMs := f.latencyMs
    lossLimit := f.lossLimit, periodS := f.periodS, ceiling := f.ceiling, quietS := f.quietS
    classes := f.classes.map fun c => c.getD .routine
    silences := f.silences.map fun b => b.getD false }

/-- The checks of STAGE-WINDOW, the index first; NORMAL is no window class (R19). -/
def windowField (f : WindowFields) : Option Nat :=
  firstFailing [
    (1, within 0 f.index 7),
    (2, f.enable.isSome),
    (3, within 0 f.base 4095),
    (4, within 0 f.mask 4095),
    (5, f.cls.any (· ≠ .normal))]

/-- The window that fields in range make. -/
def windowOf (f : WindowFields) : Window :=
  { enable := f.enable.getD false, base := BitVec.ofNat 12 f.base, mask := BitVec.ofNat 12 f.mask, cls := f.cls.getD .first }

/-- The check of SET-RATE (R90). -/
def levelField (n : Nat) : Option Nat := firstFailing [(1, within 0 n 4)]

/-- The checks of SET-MONITOR in the order of R171. -/
def monitorField (f : MonitorFields) : Option Nat :=
  firstFailing [
    (1, within 0 f.number 3),
    (2, f.event.isSome),
    (3, within 0 f.mask 65535),
    (4, f.filter.isSome),
    (5, f.action.isSome),
    (6, f.enable.isSome),
    (7, within 0 f.count 4294967295)]

/-- The monitor that fields in range make (R171). -/
def monitorOf (f : MonitorFields) : Monitor :=
  { event := f.event.getD .fgLate, mask := BitVec.ofNat 16 f.mask, filter := f.filter.getD .always
    action := f.action.getD .nothing, enable := f.enable.getD false, count := BitVec.ofNat 32 f.count }

/-- A fixed-size list with one entry replaced, where the number names one. -/
def putAt {α : Type} {n : Nat} (v : Vector α n) (i : Nat) (a : α) : Vector α n := v.setIfInBounds i a

end Sys2Proof.Machine
end

