-- ==== Sys2Proof/Machine/Checkpoint.lean ====
section
/-! DEFINITION. The checkpoint writer: the record's bytes, the judgement of a record, writes, triggers, marked writes, the period timer
(R153 to R161). -/

namespace Sys2Proof.Machine
open Sys2Proof

/-! ## The record (R153) -/

/-- The code of a mark. -/
def markCode : Mark → Nat
  | .running => 1
  | .paused => 2
  | .lossStop => 3
  | .complete => 4
  | .halted => 5
  | .abandoned => 6

/-- The mark a code names. -/
def markOf (n : Nat) : Option Mark :=
  [Mark.running, .paused, .lossStop, .complete, .halted, .abandoned].find? fun m => markCode m = n

/-- The code of a loss cause. -/
def causeCode : LossCause → Nat
  | .medium => 1
  | .timeout => 2

/-- The channel of each slot 0..15, 255 for the failed slot and for every slot at or beyond N. -/
def slotChannels (g : ArrayGroup) : List Nat :=
  (List.range 16).map fun j => if j = g.failedSlot ∨ g.members ≤ j then 255 else g.slotMap.getD j 255

/-- The bytes of the fingerprint: the fixed fields at offsets 5 to 32. -/
def fingerprint (g : ArrayGroup) : List Byte :=
  bigEndian 1 g.members ++ bigEndian 1 g.stripKiB ++ bigEndian 1 g.failedSlot ++ bigEndian 4 g.stripes ++ bigEndian 4 g.extentSize
    ++ (slotChannels g).flatMap (bigEndian 1) ++ bigEndian 1 g.spare

/-- The 48 bytes of the fixed fields. -/
def fixedFields (g : ArrayGroup) (sequence : Nat) (m : Mark) (limit losses : Nat) : List Byte :=
  bigEndian 4 sequence ++ bigEndian 1 (markCode m) ++ fingerprint g ++ bigEndian 3 0 ++ bigEndian 4 g.epoch ++ bigEndian 2 limit
    ++ bigEndian 2 losses ++ bigEndian 4 0

/-- The entry of an extent as a capture gives it: an ACTIVE extent is captured as PARTIAL with its cursor (R74). -/
def extentEntry (r : ExtentRec) : List Byte :=
  match r.state with
  | .done => bigEndian 1 1 ++ bigEndian 3 0
  | .pending => bigEndian 1 2 ++ bigEndian 3 0
  | .partDone c => bigEndian 1 3 ++ bigEndian 3 c
  | .active c _ => bigEndian 1 3 ++ bigEndian 3 c

/-- The 16 bytes of a loss record. -/
def lossEntry (r : LossRec) : List Byte :=
  bigEndian 4 r.stripe ++ bigEndian 1 r.first ++ bigEndian 1 r.count ++ bigEndian 1 r.chan.val ++ bigEndian 1 (causeCode r.cause)
    ++ bigEndian 8 0

/-- The bytes of a record, its check last. -/
def recordBytes (g : ArrayGroup) (sequence : Nat) (m : Mark) (limit : Nat) (es : List ExtentRec) (ls : List LossRec) : List Byte :=
  let inner := fixedFields g sequence m limit ls.length ++ es.flatMap extentEntry ++ ls.flatMap lossEntry
  inner ++ bigEndian 4 (crc32 inner).toNat

/-- The record captured now, as whole blocks (R156). -/
def captureRecord (g : ArrayGroup) (sequence : Nat) (m : Mark) (s : State) : List Block :=
  blocksOfBytes (recordBytes g sequence m s.plan.policy.lossLimit s.table.extents s.losses)

/-! ## Judging a record (R154) -/

/-- The extents a record's counts give it. -/
def recordExtents (bs : List Block) : Nat := (numAt bs 8 4 + numAt bs 12 4 - 1) / numAt bs 12 4

/-- The losses a record says it holds. -/
def recordLosses (bs : List Block) : Nat := numAt bs 42 2

/-- Where the check of a record stands: the number of its other bytes. -/
def checkOffset (bs : List Block) : Nat := 48 + 4 * recordExtents bs + 16 * recordLosses bs

/-- The check of a record is right. A record with E zero gives no X and has no right check (log entry 8). -/
def checkRight (bs : List Block) : Bool :=
  numAt bs 12 4 ≠ 0 ∧ checkOffset bs + 4 ≤ Config.restoreBlocks * 4096
    ∧ numAt bs (checkOffset bs) 4 = (crc32 ((List.range (checkOffset bs)).map (byteAt bs))).toNat

/-- The ARRAY group that a record's fingerprint and epoch describe. -/
def recordGroup (bs : List Block) : ArrayGroup :=
  { members := numAt bs 5 1, stripKiB := numAt bs 6 1, stripes := numAt bs 8 4, extentSize := numAt bs 12 4
    failedSlot := numAt bs 7 1, slotMap := (List.range 16).map fun j => numAt bs (16 + j) 1, spare := numAt bs 32 1
    epoch := numAt bs 36 4, fill := 0 }

/-- The state that entry x of a record stands for, if it is one of the three kinds with a cursor below the extent's length. The cursor
bytes of a DONE or PENDING entry are not looked at (log entry 8). -/
def recordEntry (bs : List Block) (x : Nat) : Option ExtentState :=
  let cursor := numAt bs (48 + 4 * x + 1) 3
  match numAt bs (48 + 4 * x) 1 with
  | 1 => some .done
  | 2 => some .pending
  | 3 => if cursor < extentLength (recordGroup bs) x then some (.partDone cursor) else none
  | _ => none

/-- Loss record i of a record, if its fields lie in their ranges. -/
def recordLoss (bs : List Block) (i : Nat) : Option LossRec :=
  let at_ := 48 + 4 * recordExtents bs + 16 * i
  let stripe := numAt bs at_ 4
  let first := numAt bs (at_ + 4) 1
  let count := numAt bs (at_ + 5) 1
  let chan := numAt bs (at_ + 6) 1
  let g := recordGroup bs
  let cause := match numAt bs (at_ + 7) 1 with | 1 => some LossCause.medium | 2 => some LossCause.timeout | _ => none
  if stripe < g.stripes ∧ 1 ≤ count ∧ first + count ≤ stripBlocks g ∧ chan < 16 then
    cause.map fun c => { stripe, first, count, chan := chanOf chan, cause := c }
  else none

/-- The loss records of a record. -/
def recordLossList (bs : List Block) : List LossRec := (List.range (recordLosses bs)).filterMap (recordLoss bs)

/-- Stripes in strictly ascending order. -/
def ascending : List Nat → Bool
  | [] => true
  | [_] => true
  | a :: b :: rest => a < b && ascending (b :: rest)

/-- Every field of a record lies in its range (R153, R154). The places that R153 lays out as zero are not looked at (log entry 8),
and a record marked COMPLETE is not asked to have every entry DONE (log entry 42). -/
def wellFormedRecord (bs : List Block) : Bool :=
  numAt bs 0 4 ≠ 0 && (markOf (numAt bs 4 1)).isSome && commitCheck (recordGroup bs) = none && numAt bs 32 1 < 16
    && (List.range (recordExtents bs)).all (fun x => (recordEntry bs x).isSome)
    && within 1 (numAt bs 40 2) 256 && recordLosses bs ≤ Config.lossRoom
    && (List.range (recordLosses bs)).all (fun i => (recordLoss bs i).isSome)
    && ascending ((recordLossList bs).map (·.stripe))

/-- What the writer finds in one slot (R154, R164). A record that is not well-formed counts as one whose fingerprint differs. -/
def judgeRecord (g : ArrayGroup) (bs : List Block) : SlotVerdict :=
  if checkRight bs then
    { checkRight := true
      fingerprintDiffers := !wellFormedRecord bs || (List.range 28).map (fun i => byteAt bs (5 + i)) ≠ fingerprint g
      epochDiffers := numAt bs 36 4 ≠ g.epoch }
  else { checkRight := false, fingerprintDiffers := false, epochDiffers := false }

/-- The record is valid (R154). -/
def SlotVerdict.valid (v : SlotVerdict) : Bool := v.checkRight && !v.fingerprintDiffers && !v.epochDiffers

/-- The extent records that a record loads, each entry as recorded whatever the record's mark (log entry 42), with the classes of the
active windows (R58). -/
def loadedExtents (ws : Vector Window 8) (bs : List Block) : List ExtentRec :=
  (List.range (recordExtents bs)).map fun x => { state := (recordEntry bs x).getD .pending, cls := classOf ws x }

/-! ## The writer -/

/-- The writer's record is replaced. -/
def setWriter (w : Writer) (s : State) : State := { s with writer := w }

/-- A write is in flight (R155). -/
def writeInFlight (w : Writer) : Bool :=
  match w.state with
  | .writing _ => true
  | _ => false

/-- The sequence after a completed one (R157). -/
def nextSequence (n : Nat) : NextSeq := if n = 4294967295 then .exhausted else .seq (n + 1)

/-- A write begins: capture, composition, WRITING, one STRIP-WRITE to the spare channel. With the next sequence EXHAUSTED none is made,
and a failed write of the spare is reported (R156). -/
def composeWrite (g : ArrayGroup) (m : Mark) (s : State) : State :=
  match s.writer.next with
  | .exhausted => reportFailure (spareChan g) (setWriter { s.writer with state := .idle } s)
  | .seq n =>
    let blocks := captureRecord g n m s
    handCommand (spareChan g) .rebuild
      { issuer := .checkpoint, write := true, block := areaStart g s.writer.slot, count := blocks.length, blocks }
      (setWriter { s.writer with state := .writing { mark := m, sequence := n, slot := s.writer.slot } } s)

/-- A write that is to be made begins, unless the spare is FAILED: then no further write is begun in the session, and the writer is IDLE
(R156, R158, log entry 37). -/
def beginWrite (m : Mark) (s : State) : State :=
  match s.plan.array with
  | none => s
  | some g => if s.chans[spareChan g].failed then setWriter { s.writer with state := .idle } s else composeWrite g m s

/-- A marked write is asked for: it begins at once or waits behind the write in flight (R161). -/
def askMarked (m : Mark) (s : State) : State :=
  match s.writer.state with
  | .idle => beginWrite m s
  | .writing _ => setWriter { s.writer with waiting := some m } s
  | .reading _ => s

/-- The writer takes a trigger by the first case that applies (R160). -/
def takeTrigger (s : State) : State :=
  if isRunning s.session.state || isPausing s.session.state then
    if s.writer.waiting.isSome then s
    else
      match s.writer.state with
      | .idle => beginWrite .running s
      | .writing w => if w.mark = .running then setWriter { s.writer with again := true } s else s
      | .reading _ => s
  else s

/-- Triggers that have been handed to the writer are taken, one after the other (R160). -/
def takeTriggers : Nat → State → State
  | 0, s => s
  | n + 1, s => takeTriggers n (takeTrigger s)

/-- Every trigger on its way to the writer is taken. -/
def takeAllTriggers (s : State) : State := takeTriggers s.mail.triggers { s with mail := { s.mail with triggers := 0 } }

/-- The period timer is started with the checkpoint period in force (R159). -/
def startPeriod (s : State) : State := setWriter { s.writer with period := some (s.now + s.plan.policy.periodS * 1000) } s

/-- The period timer is stopped (R159). -/
def stopPeriod (s : State) : State := setWriter { s.writer with period := none } s

/-- The writer stops its period timer, clears the again flag and drops a marked write it has not begun (R46, R48, R49, R161). -/
def quietWriter (s : State) : State := setWriter { s.writer with period := none, again := false, waiting := none } s

/-- The marked write of PAUSING has been asked for: it waits or is in flight (R43). -/
def markedWriteAsked (w : Writer) : Bool :=
  w.waiting.isSome ||
    match w.state with
    | .writing x => x.mark ≠ .running
    | _ => false

end Sys2Proof.Machine
end

