-- ==== Sys2Proof/Machine/Session.lean ====
section
/-! DEFINITION. The session controller's own moves: entering RUNNING, the completion check, the reports it takes, completion, the return
to IDLE (R37 to R52). -/

namespace Sys2Proof.Machine
open Sys2Proof

/-- The completion check: with every extent DONE and every lane PARKED the closing mark is set and a COMPLETE record is asked for
(R45). -/
def completionCheck (s : State) : State :=
  match s.session.state with
  | .running false =>
    if allDone s.table && allParked s.lanes then
      askMarked .complete { s with session := { s.session with state := .running true } }
    else s
  | _ => s

/-- The session enters RUNNING: the period timer is started, parked lanes wake, the completion check is made (R37, R44). -/
def enterRunning (s : State) : State := completionCheck (wakeLanes (startPeriod (setSession (.running false) s)))

/-- The mark of the record that ends PAUSING (R43). -/
def pauseMark : PauseCause → Mark
  | .request => .paused
  | .loss => .lossStop

/-- The session controller takes the report that every lane is parked (R43, R45, R77). In PAUSING the writer first takes the triggers
of the extents that the lanes' last stripes finished: a RUNNING record of theirs precedes the marked one (R160, log entry 38). -/
def lanesParkedReport (s : State) : State :=
  match s.session.state with
  | .pausing cause => if markedWriteAsked s.writer then s else askMarked (pauseMark cause) (takeAllTriggers s)
  | .running _ => completionCheck s
  | _ => s

/-- With no lane working on entry to PAUSING, the condition of R43 already holds (R41, R42). -/
def reportIfParked (s : State) : State := if allParked s.lanes then lanesParkedReport s else s

/-- The session leaves RUNNING for PAUSING; the period timer runs in RUNNING alone (R41, R42, R43). -/
def enterPausing (cause : PauseCause) (s : State) : State := stopPeriod (setSession (.pausing cause) s)

/-- The notice LOSS-LIMIT, with the list's length and the active limit (R42, R181). -/
def raiseLossLimit (s : State) : State :=
  raiseNotice .lossLimit 255 (.lossLimit s.losses.length s.plan.policy.lossLimit) s

/-- The session controller takes the loss list's report of the loss limit (R42). -/
def takeLossReport (s : State) : State :=
  match s.session.state with
  | .running _ => reportIfParked (raiseLossLimit (enterPausing .loss s))
  | .pausing .request => raiseLossLimit (setSession (.pausing .loss) s)
  | _ => s

/-- A channel's record at the return to IDLE: its link-present indication, its queues and its next number are kept (R52, R147). -/
def clearRole (r : ChannelRec) : ChannelRec := { r with role := .unused, failed := false, errors := 0 }

/-- The session returns to IDLE, and its blocks are cleared (R52). What was handed over for the session and not yet taken goes with
it: R39 and R160 let it change nothing (log entry 10). -/
def returnToIdle (s : State) : State :=
  setSession .idle { s with
    session := { s.session with longOp := none }
    table := .empty
    losses := []
    chans := s.chans.map clearRole
    writer := .reset
    mail := { s.mail with told := [], claims := [], answers := [], triggers := 0 } }

/-- The role a channel takes when a session starts (R2): `spareRole` is the spare channel's. -/
def roleIn (g : ArrayGroup) (spareRole : Role) (c : Chan) : Role :=
  if c = spareChan g then spareRole
  else
    match (survivorSlots g).find? fun j => mappedChan g j = c with
    | some j => .survivor j
    | none => .unused

/-- Every channel takes its role for a session (R2, R36, R39). -/
def giveRoles (g : ArrayGroup) (spareRole : Role) (s : State) : State :=
  { s with chans := Vector.ofFn fun c => { s.chans[c] with role := roleIn g spareRole c } }

/-- The spare channel becomes a member, SURVIVOR for the failed slot (R45, R147). -/
def spareBecomesMember (g : ArrayGroup) (s : State) : State :=
  setChan (spareChan g) { s.chans[spareChan g] with role := .survivor g.failedSlot } s

/-- The session becomes COMPLETE (R45). -/
def enterComplete (s : State) : State :=
  let s1 := stopPeriod (setSession .complete s)
  match s1.plan.array with
  | none => s1
  | some g => spareBecomesMember g s1

/-- ABORT is answered DONE, and the session returns to IDLE (R47). -/
def endDraining (s : State) : State := returnToIdle (answerLong .done .none s)

end Sys2Proof.Machine
end

