-- ==== Sys2Proof/Machine/Losses.lean ====
section
/-! DEFINITION. The loss list's changes: additions with the loss limit, removals (R149 to R151). -/

namespace Sys2Proof.Machine
open Sys2Proof

/-- A record widened to cover one more range; channel and cause are kept (R149). -/
def widen (r : LossRec) (first count : Nat) : LossRec :=
  let lo := min r.first first
  { r with first := lo, count := max (r.first + r.count) (first + count) - lo }

/-- A record goes to its place in ascending stripe order (R148, R149). -/
def insertLoss (n : LossRec) : List LossRec → List LossRec
  | [] => [n]
  | r :: rest => if n.stripe < r.stripe then n :: r :: rest else r :: insertLoss n rest

/-- The loss list is made to hold these records. -/
def setLosses (ls : List LossRec) (s : State) : State := { s with losses := ls }

/-- After an insertion the loss limit is consulted: a list at or above the active limit is reported in the same change (R150). -/
def consultLimit (s : State) : State := if s.plan.policy.lossLimit ≤ s.losses.length then takeLossReport s else s

/-- The loss list takes an addition: it widens the stripe's record, inserts one, or, with 256 records held, reports a loss it cannot
record (R149). -/
def addLoss (g : ArrayGroup) (stripe : Nat) (x : LostRange) (s : State) : State :=
  match lossOf s.losses stripe with
  | some _ => setLosses (s.losses.map fun r => if r.stripe = stripe then widen r x.first x.count else r) s
  | none =>
    if s.losses.length < Config.lossRoom then
      consultLimit (setLosses
        (insertLoss { stripe, first := x.first, count := x.count, chan := x.chan, cause := x.cause } s.losses) s)
    else declareIfOnline (spareChan g) .lossFull s

/-- The loss list takes a removal: the stripe's record goes and LOSS-CLEARED is raised, or nothing changes (R151). -/
def removeLoss (stripe : Nat) (s : State) : State :=
  match lossOf s.losses stripe with
  | none => s
  | some _ =>
    raiseNotice .lossCleared 255 (.stripe stripe) (setLosses (s.losses.filter fun r => r.stripe ≠ stripe) s)

end Sys2Proof.Machine
end

