-- ==== Sys2Proof/Machine/Lanes.lean ====
section
/-! DEFINITION. The lane engine: beginning and passing stripes, reads, the composed spare write, boundaries, parks (R76 to R89). -/

namespace Sys2Proof.Machine
open Sys2Proof

/-! ## Parks -/

/-- A lane becomes PARKED, and the park is reported to the rate governor and, when all four lanes are PARKED, to the session controller
(R77). -/
def reportPark (l : Lane) (s : State) : State :=
  let s1 := setLane l .parked s
  if allParked s1.lanes then lanesParkedReport (takeParkReport s1) else takeParkReport s1

/-- An extent the lane still holds is released (R67). -/
def releaseHeld (x : Option Nat) (s : State) : State :=
  match x with
  | some x => releaseExtent x s
  | none => s

/-- A lane parks at a boundary or for want of an extent (R86, R87). -/
def parkLane (l : Lane) (s : State) : State := reportPark l (releaseHeld s.lanes[l].extent s)

/-- The extent that the table has made ACTIVE under a CLAIMING lane whose answer it has not taken (R87). -/
def answeredExtent (l : Lane) (s : State) : Option Nat :=
  (s.mail.answers.find? fun a => a.lane = l && a.given.isSome).bind fun a => a.given.map (·.1)

/-- A lane lets go of its stripe's lock. -/
def releaseLaneLock (l : Lane) (s : State) : State :=
  match s.lanes[l].stripe with
  | some stripe => releaseLock (.lane l) stripe s
  | none => s

/-- A lane withdraws the lock request on its stripe (R102). -/
def withdrawLaneLock (l : Lane) (s : State) : State :=
  match s.lanes[l].stripe with
  | some stripe => withdrawLock (.lane l) stripe s
  | none => s

/-- What a lane lets go of when it is parked at once, by its state (R88). -/
def letGo (l : Lane) (s : State) : State :=
  let x := s.lanes[l].extent
  match s.lanes[l].state with
  | .parked => s
  | .claiming => releaseHeld (answeredExtent l s) s
  | .lockWait => releaseHeld x (withdrawLaneLock l s)
  | .bufferWait => releaseHeld x (releaseLaneLock l (withdrawBuffers l s))
  | .reading | .writing => releaseHeld x (releaseLaneLock l (orphanCommands l s))

/-- A working lane is parked at once (R88). -/
def parkAtOnce (l : Lane) (s : State) : State := if s.lanes[l].working then reportPark l (letGo l s) else s

/-- Every working lane is parked at once (R88). -/
def parkAll (s : State) : State := parkAtOnce 3 (parkAtOnce 2 (parkAtOnce 1 (parkAtOnce 0 s)))

/-! ## Stripes -/

/-- A lane with its REBUILD lock enters BUFFER-WAIT and requests N−1 buffers (R78). -/
def enterBufferWait (g : ArrayGroup) (l : Lane) (s : State) : State :=
  requestBuffers { op := .lane l, count := g.members - 1 } (setLane l { s.lanes[l] with state := .bufferWait } s)

/-- A lane requests a REBUILD lock on the stripe that is to be rebuilt (R78). -/
def seekLock (g : ArrayGroup) (l : Lane) (stripe : Nat) (s : State) : State :=
  let r := requestLock (.lane l) .rebuild stripe s
  if r.1 then enterBufferWait g l r.2 else r.2

/-- A lane at a stripe boundary clears its stripe, and its extent if that is finished (R84, R86). -/
def clearStripe (l : Lane) (finished : Bool) (s : State) : State :=
  let r := s.lanes[l]
  setLane l { LaneRec.parked with state := r.state, extent := if finished then none else r.extent } s

/-- The decision at a stripe boundary (R86). `next` begins the stripe at the new cursor. -/
def decideBoundary (l : Lane) (next : State → State) (finished : Bool) (s : State) : State :=
  if !isRunning s.session.state then parkLane l s
  else if s.governor.target < workingUpTo s.lanes l then parkLane l s
  else if finished then claimLane l s
  else next s

/-- The stripe at the cursor of the extent a lane holds. -/
def cursorStripe (g : ArrayGroup) (l : Lane) (s : State) : Option (Nat × Nat) :=
  s.lanes[l].extent.bind fun x => (s.table.extents[x]?.bind ExtentRec.cursor).map fun c => (x, x * g.extentSize + c)

/-- A lane begins the stripe at its extent's cursor: it enters LOCK-WAIT, asks whether it may pass the stripe, and seeks the lock or
goes to its next boundary (R65, R78). Every pass shortens the ahead set, so its length bounds the stripes passed in a row. -/
def beginStripe (g : ArrayGroup) (l : Lane) : Nat → State → State
  | 0, s => s
  | n + 1, s =>
    match cursorStripe g l s with
    | none => s
    | some (x, stripe) =>
      let s1 := setLane l { s.lanes[l] with state := .lockWait, stripe := some stripe } s
      if s1.table.ahead.contains stripe then
        let r := advanceCursor g x s1
        decideBoundary l (beginStripe g l n) r.1 (clearStripe l r.1 r.2)
      else seekLock g l stripe s1

/-- A lane begins the stripe at its cursor (R78). -/
def takeUpStripe (g : ArrayGroup) (l : Lane) (s : State) : State := beginStripe g l (s.table.ahead.length + 1) s

/-- A lane comes to a stripe boundary after a finished stripe (R84, R86). -/
def boundary (g : ArrayGroup) (l : Lane) (finished : Bool) (s : State) : State :=
  decideBoundary l (takeUpStripe g l) finished (clearStripe l finished s)

/-! ## Reads -/

/-- The command that reads or writes a whole strip of a lane's stripe (R79, R83). -/
def stripCmd (g : ArrayGroup) (l : Lane) (stripe : Nat) (write : Bool) (blocks : List Block) : StripCmd :=
  { issuer := .lane l, write, block := stripe * stripBlocks g, count := stripBlocks g, blocks }

/-- A strip of zero blocks. -/
def zeroStrip (g : ArrayGroup) : List Block := List.replicate (stripBlocks g) 0

/-- A lane with its buffers enters READING and hands over one read for each surviving slot (R79). -/
def enterReading (g : ArrayGroup) (l : Lane) (stripe : Nat) (s : State) : State :=
  let chans := (survivorSlots g).map (mappedChan g)
  let s1 := setLane l
    { s.lanes[l] with
      state := .reading
      reads := chans.map fun c => { chan := c, attempts := 1, outcome := .outstanding }
      lost := []
      fill := none
      accum := zeroStrip g } s
  chans.foldl (fun t c => handCommand c .rebuild (stripCmd g l stripe false []) t) s1

/-- The blocks of a strip are accumulated into the XOR; a position not obtained adds nothing (R79, R81). -/
def accumulate (acc : List Block) (bs : List (Option Block)) : List Block :=
  acc.zipIdx.map fun p => p.1.xor ((bs[p.2]?.bind id).getD 0)

/-- The read of a channel is changed in a lane's record. -/
def setRead (c : Chan) (f : LaneRead → LaneRead) (r : LaneRec) : LaneRec :=
  { r with reads := r.reads.map fun q => if q.chan = c then f q else q }

/-- A lost read that has no lost range: its channel was FAILED, and the lane waits for the park (R81, R82). -/
def awaitsPark (r : LaneRec) : Bool := r.reads.any fun q => q.outcome = .lost && !r.lost.any fun x => x.chan = q.chan

/-- The smallest range that covers two. -/
def cover (a b : Nat × Nat) : Nat × Nat :=
  let lo := min a.1 b.1
  (lo, max (a.1 + a.2) (b.1 + b.2) - lo)

/-- The smallest range that covers all of a list. -/
def coverAll : List (Nat × Nat) → Option (Nat × Nat)
  | [] => none
  | a :: rest => some (rest.foldl cover a)

/-- The fill range: over the lane's lost ranges and the stripe's record (R83). -/
def fillRange (lost : List LostRange) (record : Option (Nat × Nat)) : Option (Nat × Nat) :=
  coverAll (lost.map (fun x => (x.first, x.count)) ++ record.toList)

/-- The spare strip: the accumulated XOR, with the fill pattern over the fill range (R83). -/
def spareStrip (g : ArrayGroup) (acc : List Block) (fill : Option (Nat × Nat)) : List Block :=
  acc.zipIdx.map fun p => if fill.any (inRange p.2) then fillBlock g.fill else p.1

/-- With no read outstanding the lane fixes the fill range, hands over the spare write and enters WRITING (R83). -/
def compose (g : ArrayGroup) (l : Lane) (stripe : Nat) (s : State) : State :=
  let r := s.lanes[l]
  let fill := fillRange r.lost (lossRange s.losses stripe)
  let blocks := spareStrip g r.accum fill
  handCommand (spareChan g) .rebuild (stripCmd g l stripe true blocks)
    (setLane l { r with state := .writing, fill, accum := blocks } s)

/-- The lane composes when no read is outstanding, unless it waits for the park (R80, R82). -/
def composeIfReady (g : ArrayGroup) (l : Lane) (stripe : Nat) (s : State) : State :=
  let r := s.lanes[l]
  if r.reads.any (·.outcome = .outstanding) || awaitsPark r then s else compose g l stripe s

/-- A read's final failure on an ONLINE channel: the lost range is added, and the blocks obtained are accumulated (R81). -/
def loseRead (c : Chan) (x : LostRange) (bs : List (Option Block)) (r : LaneRec) : LaneRec :=
  let r1 := setRead c (fun q => { q with outcome := .lost }) r
  { r1 with lost := r1.lost ++ [x], accum := accumulate r1.accum bs }

/-- The read of a channel is handed over again, with MEMBER-RETRY (R80). -/
def retryRead (g : ArrayGroup) (l : Lane) (stripe : Nat) (c : Chan) (s : State) : State :=
  raiseEvent .memberRetry (some c)
    (handCommand c .rebuild (stripCmd g l stripe false [])
      (setLane l (setRead c (fun q => { q with attempts := q.attempts + 1 }) s.lanes[l]) s))

/-- Attempts made on a channel's read. -/
def attemptsOn (r : LaneRec) (c : Chan) : Nat := ((r.reads.find? fun q => q.chan = c).map (·.attempts)).getD 0

/-- A read that failed may be handed over again: attempts made ≤ R and the channel ONLINE (R80). -/
def mayRetry (c : Chan) (attempts : Nat) (s : State) : Bool := attempts ≤ s.plan.policy.retryLimit && !s.chans[c].failed

/-- A lane takes the ending of its survivor read on a channel (R80 to R82). -/
def takeLaneRead (g : ArrayGroup) (l : Lane) (stripe : Nat) (c : Chan) (e : EndStatus) (s : State) : State :=
  let r := s.lanes[l]
  let lose (x : LostRange) (bs : List (Option Block)) : State :=
    if s.chans[c].failed then setLane l (setRead c (fun q => { q with outcome := .lost }) r) s
    else composeIfReady g l stripe (setLane l (loseRead c x bs r) s)
  if awaitsPark r then s
  else
    match e with
    | .good bs =>
      composeIfReady g l stripe
        (setLane l
          { setRead c (fun q => { q with outcome := .good }) r with accum := accumulate r.accum (bs.map some) } s)
    | .medium first count bs =>
      if mayRetry c (attemptsOn r c) s then retryRead g l stripe c s
      else lose { chan := c, first, count, cause := .medium } (spread (stripBlocks g) first count bs)
    | .rejected | .timeout =>
      if mayRetry c (attemptsOn r c) s then retryRead g l stripe c s
      else lose { chan := c, first := 0, count := stripBlocks g, cause := .timeout } []
    | .memberFailed => setLane l (setRead c (fun q => { q with outcome := .lost }) r) s

/-! ## The spare write -/

/-- One lost range of a finished stripe: the loss list's addition, the event and the notice STRIP-LOST (R84, R97). -/
def recordLostRange (g : ArrayGroup) (stripe : Nat) (s : State) (x : LostRange) : State :=
  raiseNotice .stripLost 255 (.stripLost stripe x.chan) (raiseEvent .stripLost none (addLoss g stripe x s))

/-- The six steps of a finished stripe (R84). -/
def finishStripe (g : ArrayGroup) (l : Lane) (x stripe : Nat) (s : State) : State :=
  let s1 := s.lanes[l].lost.foldl (recordLostRange g stripe) s
  let r := advanceCursor g x s1
  let s2 := raiseEvent .rebuildStripeDone none r.2
  boundary g l r.1 (releaseLock (.lane l) stripe (releaseBuffers (.lane l) s2))

/-- A lane takes its spare write's ending: the six steps on GOOD, else the report to the channel unit, and the lane waits for the park
(R84, R85). -/
def takeLaneWrite (g : ArrayGroup) (l : Lane) (x stripe : Nat) (e : EndStatus) (s : State) : State :=
  match e with
  | .good _ => finishStripe g l x stripe s
  | _ => reportFailure (spareChan g) s

end Sys2Proof.Machine
end

