-- ==== Sys2Proof/Machine/Transitions.lean ====
section
/-! DEFINITION. The session's transitions that stop the lanes or follow a report: DRAINING, HALTED, TARGET-FAILED, the checkpoint
writer's reports, the outcome of RESTORE (R37 to R50, R156 to R164). -/

namespace Sys2Proof.Machine
open Sys2Proof

/-! ## DRAINING, HALTED, TARGET-FAILED -/

/-- The session enters DRAINING: the overtaken operation is answered, ABORT is in flight, lanes park at once, the writer is quieted
(R46). -/
def enterDraining (tag : Tag) (s : State) : State :=
  quietWriter (parkAll (setSession .draining (beginLong .abort tag (answerLong .overtaken .none s))))

/-- The spare channel's condition is ONLINE. -/
def spareOnline (s : State) : Bool := s.plan.array.any fun g => !s.chans[spareChan g].failed

/-- The session enters HALTED with reason SECOND-MEMBER, and asks for the HALTED record if the spare is ONLINE (R48). -/
def enterHalted (s : State) : State :=
  let s1 := quietWriter (parkAll (setSession (.halted .secondMember) (answerLong .overtaken .none s)))
  if spareOnline s1 then askMarked .halted s1 else s1

/-- The write in flight that the spare's declaration has ended unsuccessfully ends: the writer becomes IDLE, its sequence and slot
unchanged (R49, R158, R161). A write that completed GOOD before the declaration waits for its own taking (log entry 36). -/
def endLostWrite (s : State) : State :=
  match s.writer.state, takeEnding .checkpoint true none s with
  | .writing _, some (e, t) =>
    match e.status with
    | .good _ => s
    | _ => setWriter { t.writer with state := .idle } t
  | _, _ => s

/-- The session enters TARGET-FAILED (R49). -/
def enterTargetFailed (s : State) : State :=
  endLostWrite (quietWriter (parkAll (setSession .targetFailed (answerLong .targetLost .none s))))

/-- The session controller takes a FAILED declaration by the channel's role and its own state (R48, R49, R50). -/
def takeTold (t : Told) (s : State) : State :=
  match t.role with
  | .unused => s
  | .survivor _ =>
    if s.session.state = .complete then setSession (.halted .memberAfterComplete) s
    else if sessionLive s.session.state then enterHalted s
    else s
  | .target =>
    if s.session.state = .complete then setSession (.halted .memberAfterComplete) s
    else if sessionLive s.session.state then enterTargetFailed s
    else s

/-- The drain conditions hold (R47). -/
def drained (s : State) : Bool :=
  s.session.state = .draining ∧ orphanCount s = 0 ∧ s.queue = [] ∧ writeInFlight s.writer = false

/-- The session controller leaves DRAINING when the conditions hold: it asks for the ABANDONED record, or with the spare FAILED returns
to IDLE at once (R47). With the next sequence EXHAUSTED the request makes no write and leaves the spare FAILED (R156), and the session
stays DRAINING until the conditions are judged again (log entry 39). -/
def judgeDrain (s : State) : State :=
  if drained s then if spareOnline s then askMarked .abandoned s else endDraining s else s

/-! ## The checkpoint writer's write ends -/

/-- A marked write has ended PAUSING (R43). -/
def endPausing (st : SessionState) (s : State) : State :=
  if isPausing s.session.state then setSession st (answerLong .done .none s) else s

/-- The session controller takes the report of a completed write (R157). -/
def reportWritten (w : CkptWrite) (s : State) : State :=
  match w.mark with
  | .running =>
    if s.session.state = .starting ∧ w.sequence = 2 then enterRunning (answerLong .done .none s) else s
  | .paused => endPausing .paused s
  | .lossStop => endPausing .lossStop s
  | .complete => if isRunning s.session.state then enterComplete s else s
  | .halted => s
  | .abandoned => if s.session.state = .draining then endDraining s else s

/-- What follows a completed write: a waiting mark, the second START write, a write for the again flag, or IDLE (R157, R162). -/
def followWrite (s : State) : State :=
  match s.writer.state with
  | .writing _ =>
    match s.writer.waiting with
    | some m => beginWrite m (setWriter { s.writer with state := .idle, again := false, waiting := none } s)
    | none =>
      let s1 := setWriter { s.writer with state := .idle, again := false } s
      if s.session.state = .starting then beginWrite .running s1
      else if s.writer.again && (isRunning s.session.state || isPausing s.session.state) then beginWrite .running s1
      else s1
  | _ => s

/-- A write completed GOOD: the writer advances, reports, and decides what follows (R157). -/
def writeDone (w : CkptWrite) (s : State) : State :=
  followWrite (reportWritten w
    (setWriter { s.writer with next := nextSequence w.sequence, slot := otherSlot w.slot } s))

/-- A failure other than MEMBER-FAILED is reported to the channel unit (R158, R163). -/
def reportUnlessEnded (g : ArrayGroup) (e : EndStatus) (s : State) : State :=
  if e = .memberFailed then s else reportFailure (spareChan g) s

/-- A write ended otherwise than GOOD (R158). -/
def writeFailed (g : ArrayGroup) (w : CkptWrite) (e : EndStatus) (s : State) : State :=
  let s1 := reportUnlessEnded g e s
  let s2 := setWriter { s1.writer with state := .idle, again := false, waiting := none } s1
  if w.mark = .abandoned ∧ s2.session.state = .draining then endDraining s2 else s2

/-- The checkpoint writer takes its write's ending (R157, R158). -/
def takeWriteEnding (g : ArrayGroup) (w : CkptWrite) (e : EndStatus) (s : State) : State :=
  match e with
  | .good _ => writeDone w s
  | _ => writeFailed g w e s

/-! ## RESTORE -/

/-- The writer hands over the read of a slot: six blocks from the slot's first (R163). -/
def readSlot (g : ArrayGroup) (slot : CkptSlot) (s : State) : State :=
  handCommand (spareChan g) .rebuild
    { issuer := .checkpoint, write := false, block := areaStart g slot, count := Config.restoreBlocks, blocks := [] } s

/-- RESTORE ends in IDLE with an answer (R39). -/
def restoreEnds (a : Answer) (r : Result) (s : State) : State := returnToIdle (answerLong a r s)

/-- Of two records, told which are valid and whether B has the higher sequence: the valid one with the higher sequence, slot A's when
they are equal (R164). -/
def chooseValid (validA validB newerB : Bool) (a b : List Block) : Option (CkptSlot × List Block) :=
  match validA, validB with
  | true, true => if newerB then some (.b, b) else some (.a, a)
  | true, false => some (.a, a)
  | false, true => some (.b, b)
  | false, false => none

/-- The record chosen: the valid one with the higher sequence, slot A's when they are equal (R164). -/
def chooseRecord (g : ArrayGroup) (a b : List Block) : Option (CkptSlot × List Block) :=
  chooseValid (judgeRecord g a).valid (judgeRecord g b).valid (decide (numAt a 0 4 < numAt b 0 4)) a b

/-- A channel that has just taken the role SURVIVOR while its link is not present is declared FAILED (R40). -/
def checkRestoredLink (c : Chan) (s : State) : State :=
  match s.chans[c].role with
  | .survivor _ => if s.chans[c].linkPresent then s else declareIfOnline c .link s
  | _ => s

/-- The channels that have just become SURVIVOR are checked in ascending order (R40). -/
def checkRestoredLinks (s : State) : State := (List.finRange 16).foldl (fun t c => checkRestoredLink c t) s

/-- The results a RESTORE answered DONE carries (R164). -/
def restoreResult (slot : CkptSlot) (m : Mark) (bs : List Block) (es : List ExtentRec) : Result :=
  let t : ExtentTable := { extents := es, ahead := [], holdWaiting := false }
  let n := extentCounts t
  .restored slot (numAt bs 0 4) m (numAt bs 40 2) n.done n.partDone n.pending (recordLosses bs)

/-- The blocks load the chosen record: extents, losses, roles, next sequence and slot (R39, R58, R164). DESIGN CHOICE, unsafe: a record
marked COMPLETE that carries an entry not DONE loads that entry as recorded, where R58 says both that entries load so and that after
COMPLETE every record is DONE (log entry 42). -/
def loadRecord (g : ArrayGroup) (slot : CkptSlot) (spareRole : Role) (bs : List Block) (s : State) : State :=
  giveRoles g spareRole { s with
    table := { extents := loadedExtents s.plan.windows bs, ahead := [], holdWaiting := false }
    losses := recordLossList bs
    writer := { s.writer with state := .idle, next := nextSequence (numAt bs 0 4), slot := otherSlot slot } }

/-- RESTORE ends in PAUSED or COMPLETE (R39, R40). -/
def restoreTo (g : ArrayGroup) (slot : CkptSlot) (m : Mark) (st : SessionState) (spareRole : Role) (bs : List Block) (s : State) : State :=
  let es := loadedExtents s.plan.windows bs
  checkRestoredLinks (evalHold (loadRecord g slot spareRole bs
    (setSession st (answerLong .done (restoreResult slot m bs es) s))))

/-- RESTORE ends by the mark of the chosen record: in PAUSED, in COMPLETE, or refused CHECKPOINT-CLOSED (R39, R164). -/
def restoreByMark (g : ArrayGroup) (slot : CkptSlot) (bs : List Block) (m : Option Mark) (s : State) : State :=
  match m with
  | some .running => restoreTo g slot .running .paused .target bs s
  | some .paused => restoreTo g slot .paused .paused .target bs s
  | some .lossStop => restoreTo g slot .lossStop .paused .target bs s
  | some .complete => restoreTo g slot .complete .complete (.survivor g.failedSlot) bs s
  | some .halted | some .abandoned | none => restoreEnds (.refused .checkpointClosed) .none s

/-- RESTORE ends without a valid record: refused STALE-CHECKPOINT if one of the checks is right, else NO-CHECKPOINT (R39, R164). -/
def restoreRefused (a b : SlotVerdict) (s : State) : State :=
  if a.checkRight || b.checkRight then restoreEnds (.refused .staleCheckpoint) (.stale a b) s
  else restoreEnds (.refused .noCheckpoint) .none s

/-- RESTORE ends with the record chosen, if there is one (R39, R164). -/
def restoreChosen (g : ArrayGroup) (a b : List Block) (chosen : Option (CkptSlot × List Block)) (s : State) : State :=
  match chosen with
  | some (slot, bs) => restoreByMark g slot bs (markOf (numAt bs 4 1)) s
  | none => restoreRefused (judgeRecord g a) (judgeRecord g b) s

/-- The writer reports the result of two records read, and the session leaves RESTORING (R39, R164). -/
def reportRecords (g : ArrayGroup) (a b : List Block) (s : State) : State :=
  if s.chans[spareChan g].failed then restoreEnds .targetLost .none s else restoreChosen g a b (chooseRecord g a b) s

/-- The blocks found in a slot. -/
def foundBlocks : SlotRead → List Block
  | .read bs => bs
  | _ => []

/-- A slot's read ended GOOD: slot B is read after slot A, and after slot B the result is reported (R163). -/
def slotRead (g : ArrayGroup) (r : CkptReads) (bs : List Block) (s : State) : State :=
  match r.current with
  | .a =>
    readSlot g .b
      (setWriter { s.writer with state := .reading { r with a := .read bs, current := .b, attempts := 1 } } s)
  | .b => reportRecords g (foundBlocks r.a) bs (setWriter { s.writer with state := .idle } s)

/-- A slot's read failed finally: the failure is reported, and RESTORE is answered TARGET-LOST (R163, R39). -/
def slotFailed (g : ArrayGroup) (e : EndStatus) (s : State) : State :=
  restoreEnds .targetLost .none (reportUnlessEnded g e s)

/-- A slot's read is handed over again, with MEMBER-RETRY for the spare channel (R163). -/
def retrySlot (g : ArrayGroup) (r : CkptReads) (s : State) : State :=
  raiseEvent .memberRetry (some (spareChan g))
    (readSlot g r.current (setWriter { s.writer with state := .reading { r with attempts := r.attempts + 1 } } s))

/-- The checkpoint writer takes a slot read's ending (R163). -/
def takeReadEnding (g : ArrayGroup) (r : CkptReads) (e : EndStatus) (s : State) : State :=
  match e with
  | .good bs => slotRead g r bs s
  | .memberFailed => slotFailed g e s
  | .medium _ _ _ | .rejected | .timeout =>
    if mayRetry (spareChan g) r.attempts s then retrySlot g r s else slotFailed g e s

end Sys2Proof.Machine
end

