-- ==== Sys2Proof/Machine/Foreground.lean ====
section
/-! DEFINITION. The foreground engine: acceptance, phases and their planning, reads, writes, the end of an operation (R114 to R132). -/

namespace Sys2Proof.Machine
open Sys2Proof

/-! ## Entries and buffers -/

/-- The entry of a tag. -/
def fgEntry (tag : Tag) (s : State) : Option FgEntry := s.queue.find? fun e => e.tag = tag

/-- The entry of its tag is replaced. -/
def setEntry (e : FgEntry) (s : State) : State := { s with queue := s.queue.map fun f => if f.tag = e.tag then e else f }

/-- The block held for a slot and a position, if it was obtained. -/
def blockAt (bufs : List (List (Option Block))) (j k : Nat) : Option Block := (bufs[j]?.bind fun b => b[k]?).bind id

/-- A block is laid into a slot's buffer. -/
def putBlock (j k : Nat) (b : Block) (bufs : List (List (Option Block))) : List (List (Option Block)) :=
  bufs.modify j fun buf => buf.set k (some b)

/-- Buffers for every slot, with nothing obtained. -/
def emptyBuffers (g : ArrayGroup) : List (List (Option Block)) := List.replicate g.members (List.replicate (stripBlocks g) none)

/-- The places of a run's blocks in LBA order: logical block, slot, position (R7, R8). -/
def runPlaces (g : ArrayGroup) (lba count : Nat) : List (Nat × Nat × Nat) :=
  (List.range count).map fun i =>
    let p := locate g (lba + i)
    (lba + i, p.slot, p.block)

/-- Block k of slot j computed from the other slots' buffers, if every one of them has it (R6). -/
def reconstruct (g : ArrayGroup) (bufs : List (List (Option Block))) (j k : Nat) : Option Block :=
  (((slotsOf g).filter (· ≠ j)).mapM fun i => blockAt bufs i k).map xorAll

/-! ## Planning (R117) -/

/-- The rebuilt answer: asked of the extent table while the spare is in use; every stripe counts as rebuilt in COMPLETE and in HALTED
with reason MEMBER-AFTER-COMPLETE, where the table is not asked (R14, R73, R117); log entry 42 has a case in which it would answer
otherwise. -/
def rebuiltAnswer (g : ArrayGroup) (stripe : Nat) (s : State) : Bool :=
  match s.session.state with
  | .complete | .halted .memberAfterComplete => true
  | st => spareInUse st && isRebuilt g s.table stripe

/-- The channel that serves a slot, under a rebuilt answer (R12). -/
def servingChan (g : ArrayGroup) (rebuilt : Bool) (j : Nat) : Option Chan :=
  if j = g.failedSlot then if rebuilt then some (spareChan g) else none else some (mappedChan g j)

/-- The serving channel of a present slot (R13). -/
def presentChan (g : ArrayGroup) (rebuilt : Bool) (s : State) (j : Nat) : Option Chan :=
  (servingChan g rebuilt j).filter fun c => !s.chans[c].failed

/-- The judgements of a planning, without commands (R117). -/
def judgePhase (g : ArrayGroup) (stripe : Nat) (s : State) : PhasePlan :=
  let rebuilt := rebuiltAnswer g stripe s
  { rebuilt
    missing := (slotsOf g).filter fun j => (presentChan g rebuilt s j).isNone
    lost := lossRange s.losses stripe
    wanted := []
    cmds := [] }

/-- Block k of slot j is a lost block on a rebuilt stripe by the judgements of a planning (R15, R117). -/
def isLost (g : ArrayGroup) (p : PhasePlan) (j k : Nat) : Bool := p.rebuilt && decide (j = g.failedSlot) && p.lost.any (inRange k)

/-- The span from the lowest to the highest of some positions: first and count (R119). -/
def spanOf : List Nat → Option (Nat × Nat)
  | [] => none
  | k :: ks => some (ks.foldl min k, ks.foldl max k + 1 - ks.foldl min k)

/-- A read command of a phase for each slot that has positions to supply, over their span (R119, R121, R125). -/
def readCmds (g : ArrayGroup) (p : PhasePlan) (s : State) (positions : Nat → List Nat) : List PhaseCmd :=
  (slotsOf g).filterMap fun j =>
    match presentChan g p.rebuilt s j, spanOf (positions j) with
    | some c, some (first, count) =>
      some { slot := j, chan := c, spare := false, first, count, attempts := 1, outcome := .outstanding }
    | _, _ => none

/-- The strip command of a phase command (R3, R117). -/
def fgStrip (g : ArrayGroup) (e : FgEntry) (c : PhaseCmd) (write : Bool) : StripCmd :=
  { issuer := .fg e.tag, write, block := e.stripe * stripBlocks g + c.first, count := c.count
    blocks := if write then (List.range c.count).map fun k => (blockAt e.bufs c.slot k).getD 0 else [] }

/-- A phase begins: its plan and stage are recorded, and its commands are handed over in the foreground class (R117). -/
def beginPhase (g : ArrayGroup) (e : FgEntry) (stage : FgStage) (p : PhasePlan) (write : Bool) (s : State) : State :=
  p.cmds.foldl (fun t c => handCommand c.chan .foreground (fgStrip g e c write) t) (setEntry { e with stage, plan := p } s)

/-! ## The end of an operation -/

/-- The type code of the request behind an entry. -/
def entryType (e : FgEntry) : Byte := if e.write then 0x11 else 0x10

/-- The reply is handed to the sender, the entry is removed, and the time since arrival is judged (R131). -/
def handFgReply (e : FgEntry) (a : Answer) (r : Result) (s : State) : State :=
  let s1 := answer e.tag (entryType e) a r { s with queue := s.queue.filter fun f => f.tag ≠ e.tag }
  if s1.plan.policy.latencyMs < s1.now - e.arrival then raiseEvent .fgLate none s1 else s1

/-- An operation ends: loss clearing, lock release, reply, FG-RECONSTRUCT, buffer release, the reply handed over (R130). -/
def endFg (e : FgEntry) (a : Answer) (r : Result) (s : State) : State :=
  let s1 := if e.write && e.fullStripe && decide (a = .done) then removeLoss e.stripe s else s
  let s2 := releaseLock (.fg e.tag) e.stripe s1
  let s3 := if e.reconstructed then raiseEvent .fgReconstruct none s2 else s2
  handFgReply e a r (releaseBuffers (.fg e.tag) s3)

/-- A read ends (R122). The lowest unrecoverable block decides its status. -/
def endRead (g : ArrayGroup) (e : FgEntry) (s : State) : State :=
  match e.unrecoverable with
  | some lba => endFg e (.lostData lba) .none s
  | none =>
    endFg e .done (.blocks ((runPlaces g e.lba e.count).map fun q => (blockAt e.bufs q.2.1 q.2.2).getD 0)) s

/-- The lowest of the blocks found unrecoverable. -/
def lowest (ls : List Nat) : Option Nat := ls.min?

/-! ## Reads (R119 to R121) -/

/-- A touched block is unrecoverable at planning: a lost block on a rebuilt stripe, or a block of a missing slot with another slot
missing too (R119). -/
def lostAtPlanning (g : ArrayGroup) (p : PhasePlan) (j k : Nat) : Bool :=
  isLost g p j k || (p.missing.contains j && p.missing.any (· ≠ j))

/-- The positions a slot is to supply in a read phase: its own touched positions, and those of a touched strip that is missing (R119). -/
def suppliedPositions (g : ArrayGroup) (p : PhasePlan) (e : FgEntry) (j : Nat) : List Nat :=
  ((runPlaces g e.lba e.count).filter fun q => q.2.1 = j || p.missing.contains q.2.1).map fun q => q.2.2

/-- The read phase of a READ-BLOCKS is planned (R119). -/
def planRead (g : ArrayGroup) (e : FgEntry) (s : State) : State :=
  let p := judgePhase g e.stripe s
  match lowest (((runPlaces g e.lba e.count).filter fun q => lostAtPlanning g p q.2.1 q.2.2).map (·.1)) with
  | some lba => endRead g { e with plan := p, unrecoverable := some lba } s
  | none => beginPhase g e .readPhase { p with cmds := readCmds g p s (suppliedPositions g p e) } false s

/-- A block to be reconstructed is unrecoverable at planning: another slot is missing, or its block is lost (R121). -/
def unsuppliable (g : ArrayGroup) (p : PhasePlan) (j k : Nat) : Bool :=
  (slotsOf g).any fun i => i ≠ j && (p.missing.contains i || isLost g p i k)

/-- The positions a slot is to supply in a reconstruction phase: those wanted on other slots that it has not yet supplied (R121). -/
def wantedPositions (wanted : List (Nat × Nat)) (e : FgEntry) (i : Nat) : List Nat :=
  (wanted.filter fun q => q.1 ≠ i && (blockAt e.bufs i q.2).isNone).map (·.2)

/-- Blocks computed from the buffers as they stand, laid into them and noted; the operation has reconstructed if any was computed (R6,
R120). -/
def computeBlocks (g : ArrayGroup) (wanted : List (Nat × Nat)) (e : FgEntry) : FgEntry :=
  let found := wanted.filterMap fun q => (reconstruct g e.bufs q.1 q.2).map fun b => (q.1, q.2, b)
  { e with
    bufs := found.foldl (fun bufs f => putBlock f.1 f.2.1 f.2.2 bufs) e.bufs
    reconstructed := e.reconstructed || !found.isEmpty
    computed := e.computed ++ found.map fun f => (f.1, f.2.1) }

/-- The logical blocks of a run that lie on given places and satisfy a test. -/
def runBlocks (g : ArrayGroup) (e : FgEntry) (test : Nat → Nat → Bool) : List (Nat × Nat × Nat) :=
  (runPlaces g e.lba e.count).filter fun q => test q.2.1 q.2.2

/-- A reconstruction phase has ended: each wanted block is computed or unrecoverable, and the read ends (R121). A block obtained earlier
that counts as not obtained by now is unrecoverable too, since no third phase follows (R15, log entry 35). -/
def endReconstruct (g : ArrayGroup) (e : FgEntry) (s : State) : State :=
  let bad := runBlocks g e fun j k =>
    if e.plan.wanted.contains (j, k) then (reconstruct g e.bufs j k).isNone else (blockAt e.bufs j k).isNone
  endRead g { computeBlocks g e.plan.wanted e with unrecoverable := lowest (bad.map (·.1)) } s

/-- The reconstruction phase is planned afresh (R121). With nothing left to read it ends at once. -/
def planReconstruct (g : ArrayGroup) (e : FgEntry) (wanted : List (Nat × Nat)) (s : State) : State :=
  let p := { judgePhase g e.stripe s with wanted }
  let bad := runBlocks g e fun j k => wanted.contains (j, k) && unsuppliable g p j k
  match lowest (bad.map (·.1)) with
  | some lba => endRead g { e with plan := p, unrecoverable := some lba } s
  | none =>
    let cmds := readCmds g p s (wantedPositions wanted e)
    if cmds = [] then endReconstruct g { e with stage := .reconstructPhase, plan := p } s
    else beginPhase g e .reconstructPhase { p with cmds } false s

/-- The read phase of a READ-BLOCKS has ended (R120): blocks of the strip missing at planning are computed, and blocks not obtained on a
slot that was read are to be reconstructed. -/
def endReadPhase (g : ArrayGroup) (e : FgEntry) (s : State) : State :=
  let gone := runBlocks g e fun j _ => e.plan.missing.contains j
  let bad := gone.filter fun q => (reconstruct g e.bufs q.2.1 q.2.2).isNone
  let wanted := (runBlocks g e fun j k => !e.plan.missing.contains j && (blockAt e.bufs j k).isNone).map (·.2)
  let e1 := computeBlocks g (gone.map (·.2)) e
  match lowest (bad.map (·.1)) with
  | some lba => endRead g { e1 with unrecoverable := some lba } s
  | none => if wanted = [] then endRead g e1 s else planReconstruct g e1 wanted s

/-! ## Writes (R123 to R127) -/

/-- A write may not proceed: the session is HALTED or two slots are missing (R123, R126). -/
def writeBarred (p : PhasePlan) (s : State) : Bool := isHalted s.session.state || 2 ≤ p.missing.length

/-- The new blocks are merged into the buffers (R124, R126). -/
def mergeBlocks (g : ArrayGroup) (e : FgEntry) : FgEntry :=
  { e with
    bufs := (runPlaces g e.lba e.count).zip e.blocks |>.foldl (fun bufs q => putBlock q.1.2.1 q.1.2.2 q.2 bufs) e.bufs }

/-- The parity strip is computed block by block from the data strips (R6). -/
def computeParity (g : ArrayGroup) (e : FgEntry) : FgEntry :=
  let p := paritySlot g e.stripe
  { e with
    bufs := (List.range (stripBlocks g)).foldl
      (fun bufs k => match reconstruct g e.bufs p k with | some b => putBlock p k b bufs | none => bufs) e.bufs }

/-- A write command of a whole strip. It is a spare write when its channel's role is TARGET (R127). -/
def writeCmd (g : ArrayGroup) (s : State) (j : Nat) (c : Chan) : PhaseCmd :=
  { slot := j, chan := c, spare := s.chans[c].role = .target, first := 0, count := stripBlocks g, attempts := 1, outcome := .outstanding }

/-- The failed slot's strip is written to the spare: the spare is in use, the stripe is not rebuilt at planning and the spare channel is
ONLINE (R124, R126). -/
def writesSpare (g : ArrayGroup) (p : PhasePlan) (s : State) : Bool :=
  spareInUse s.session.state && !p.rebuilt && !s.chans[spareChan g].failed

/-- The commands of a write phase: one for each present slot whose strip is to be written, then the one to the spare (R124, R126). -/
def writeCmds (g : ArrayGroup) (p : PhasePlan) (s : State) (changed : Nat → Bool) : List PhaseCmd :=
  (slotsOf g).filterMap (fun j => if changed j then (presentChan g p.rebuilt s j).map (writeCmd g s j) else none)
    ++ if writesSpare g p s then [writeCmd g s g.failedSlot (spareChan g)] else []

/-- A full-stripe write begins its write phase (R124). -/
def planFullWrite (g : ArrayGroup) (e : FgEntry) (p : PhasePlan) (s : State) : State :=
  beginPhase g (computeParity g (mergeBlocks g e)) .writePhase { p with cmds := writeCmds g p s fun _ => true } true s

/-- The first phase of a WRITE-BLOCKS is planned, with its two checks (R123, R125). -/
def planWrite (g : ArrayGroup) (e : FgEntry) (s : State) : State :=
  let p := judgePhase g e.stripe s
  if writeBarred p s then endFg { e with plan := p } (.refused .arrayHalted) .none s
  else if e.fullStripe then planFullWrite g e p s
  else if p.lost.isSome then endFg { e with plan := p } (.refused .lostStripe) .none s
  else beginPhase g e .readPhase { p with cmds := readCmds g p s fun _ => List.range (stripBlocks g) } false s

/-- All places of a stripe, by slot and position. -/
def stripePlaces (g : ArrayGroup) : List (Nat × Nat) :=
  (slotsOf g).flatMap fun j => (List.range (stripBlocks g)).map fun k => (j, k)

/-- The places of a stripe whose blocks were not obtained (R125). -/
def unobtained (g : ArrayGroup) (e : FgEntry) : List (Nat × Nat) := (stripePlaces g).filter fun q => (blockAt e.bufs q.1 q.2).isNone

/-- A strip changes in a partial write: the parity strip and each touched data strip (R126). -/
def stripChanges (g : ArrayGroup) (e : FgEntry) (j : Nat) : Bool :=
  decide (j = paritySlot g e.stripe) || (runPlaces g e.lba e.count).any fun q => q.2.1 = j

/-- The read phase of a partial write has ended: the stripe is completed in the buffers, and the write phase is planned afresh (R125,
R126). -/
def endWriteRead (g : ArrayGroup) (e : FgEntry) (s : State) : State :=
  let e1 := computeBlocks g (unobtained g e) e
  let p := judgePhase g e.stripe s
  if writeBarred p s then endFg { e1 with plan := p } (.refused .arrayHalted) .none s
  else if unobtained g e1 ≠ [] then endFg { e1 with plan := p } .unrecoverable .none s
  else
    beginPhase g (computeParity g (mergeBlocks g e1)) .writePhase { p with cmds := writeCmds g p s (stripChanges g e) } true s

/-- The first phase of an operation is planned when its buffers are reserved (R116). -/
def planFirst (g : ArrayGroup) (e : FgEntry) (s : State) : State :=
  let e1 := { e with bufs := emptyBuffers g }
  if e.write then planWrite g e1 s else planRead g e1 s

/-! ## Endings of a phase's commands -/

/-- The outstanding command of a phase on a channel. -/
def outstandingOn (p : PhasePlan) (c : Chan) : Option PhaseCmd := p.cmds.find? fun q => q.chan = c && q.outcome = .outstanding

/-- A command of a phase is replaced. -/
def setCmd (q : PhaseCmd) (p : PhasePlan) : PhasePlan := { p with cmds := p.cmds.map fun r => if r.chan = q.chan then q else r }

/-- A command of the phase is outstanding. -/
def phaseRuns (p : PhasePlan) : Bool := p.cmds.any (·.outcome = .outstanding)

/-- The blocks an ending read's last attempt yielded are laid into the slot's buffer (R118). A block obtained in an earlier phase that the
attempt does not yield stays obtained (log entry 40), and a block that was computed stays as it is (log entry 35). -/
def storeBlocks (q : PhaseCmd) (bs : List (Option Block)) (e : FgEntry) : FgEntry :=
  { e with
    bufs := bs.zipIdx.foldl (fun bufs b =>
      match b.1 with
      | some x => if e.computed.contains (q.slot, q.first + b.2) then bufs else putBlock q.slot (q.first + b.2) x bufs
      | none => bufs) e.bufs }

/-- The spare's copies that a loss record covers when a phase of reads ends count as not obtained, whether the record stood at planning
or came later (R15). -/
def dropLost (g : ArrayGroup) (losses : List LossRec) (e : FgEntry) : FgEntry :=
  match lossRange losses e.stripe with
  | none => e
  | some range =>
    { e with
      bufs := e.bufs.modify g.failedSlot fun buf => buf.zipIdx.map fun b =>
        if inRange b.2 range && !e.computed.contains (g.failedSlot, b.2) then none else b.1 }

/-- What a phase of reads leads to, once lost blocks are dropped (R120, R121, R125). -/
def judgeReads (g : ArrayGroup) (e : FgEntry) (s : State) : State :=
  if e.write then endWriteRead g e s
  else if e.stage = .reconstructPhase then endReconstruct g e s
  else endReadPhase g e s

/-- A phase of reads has ended (R15, R120, R121, R125). -/
def endReads (g : ArrayGroup) (e : FgEntry) (s : State) : State := judgeReads g (dropLost g s.losses e) s

/-- A read of a phase has ended with an outcome, and with it perhaps the phase (R118). -/
def closeRead (g : ArrayGroup) (e : FgEntry) (q : PhaseCmd) (o : CmdOutcome) (bs : List (Option Block)) (s : State) : State :=
  let e1 := storeBlocks q bs { e with plan := setCmd { q with outcome := o } e.plan }
  if phaseRuns e1.plan then setEntry e1 s else endReads g e1 (setEntry e1 s)

/-- A read of a phase is handed over again, with MEMBER-RETRY (R118). -/
def retryCmd (g : ArrayGroup) (e : FgEntry) (q : PhaseCmd) (s : State) : State :=
  raiseEvent .memberRetry (some q.chan)
    (handCommand q.chan .foreground (fgStrip g e q false)
      (setEntry { e with plan := setCmd { q with attempts := q.attempts + 1 } e.plan } s))

/-- The foreground engine takes the ending of one of its reads (R118). -/
def takeFgRead (g : ArrayGroup) (e : FgEntry) (q : PhaseCmd) (x : EndStatus) (s : State) : State :=
  match x with
  | .good bs => closeRead g e q .good (bs.map some) s
  | .medium first count bs =>
    if mayRetry q.chan q.attempts s then retryCmd g e q s
    else closeRead g e q (.partialBad first count) (spread q.count first count bs) s
  | .rejected | .timeout =>
    if mayRetry q.chan q.attempts s then retryCmd g e q s else closeRead g e q .failed [] s
  | .memberFailed => closeRead g e q .failed [] s

/-- The answer of a write whose last command has ended (R128). -/
def writeAnswer (p : PhasePlan) : Answer :=
  if p.cmds.any fun q => !q.spare && decide (q.outcome ≠ .good) then .writeIncomplete else .done

/-- A write that ended otherwise than GOOD is reported to the channel unit (R128). -/
def reportWrite (c : Chan) (good : Bool) (s : State) : State := if good then s else reportFailure c s

/-- The status is GOOD. -/
def isGood : EndStatus → Bool
  | .good _ => true
  | _ => false

/-- The foreground engine takes the ending of one of its writes: a report, an ahead-set addition, and at the phase's end the reply (R128,
R129). -/
def takeFgWrite (g : ArrayGroup) (e : FgEntry) (q : PhaseCmd) (x : EndStatus) (s : State) : State :=
  let good := isGood x
  let e1 := { e with plan := setCmd { q with outcome := if good then .good else .failed } e.plan }
  let s1 := reportWrite q.chan good (setEntry e1 s)
  let s2 := if good && q.spare && !e.plan.rebuilt then addAhead g e.stripe s1 else s1
  if phaseRuns e1.plan then s2 else endFg e1 (writeAnswer e1.plan) .none s2

/-! ## Acceptance -/

/-- An operation with its lock enters BUFFER-WAIT and asks for N buffers (R116). -/
def fgBuffers (g : ArrayGroup) (e : FgEntry) (s : State) : State :=
  requestBuffers { op := .fg e.tag, count := g.members } (setEntry { e with stage := .bufferWait } s)

/-- The plan of an operation that has not planned. -/
def noPlan : PhasePlan := { rebuilt := false, missing := [], lost := none, wanted := [], cmds := [] }

/-- The entry of an accepted request (R114). -/
def newEntry (g : ArrayGroup) (tag : Tag) (write : Bool) (lba count : Nat) (blocks : List Block) (now : Nat) : FgEntry :=
  { tag, write, lba, count, stripe := lba / stripeData g, fullStripe := write && runIsFull g lba count, blocks, arrival := now
    stage := .lockWait, plan := noPlan, reconstructed := false, unrecoverable := none, bufs := []
    computed := [] }

/-- The mode of an operation's lock (R98). -/
def fgMode (write : Bool) : LockMode := if write then .exclusive else .shared

/-- A request is accepted: its entry, FG-ARRIVED, its lock request and, if that is granted at once, its buffer request (R116). -/
def acceptFg (g : ArrayGroup) (e : FgEntry) (s : State) : State :=
  let r := requestLock (.fg e.tag) (fgMode e.write) e.stripe (raiseEvent .fgArrived none { s with queue := s.queue ++ [e] })
  if r.1 then fgBuffers g e r.2 else r.2

/-- The first check that a foreground request fails (R115). -/
def fgRefusal (g : ArrayGroup) (lba count : Nat) (s : State) : Option Reason :=
  if !takesForeground s.session.state then some .state
  else if !within 1 count 32 then some (.range 2)
  else if !runInArray g lba count then some (.range 1)
  else if !runInStripe g lba count then some .span
  else if Config.queueRoom ≤ s.queue.length then some .queueFull
  else none

/-- The foreground engine takes a request (R115, R116). Without an ARRAY group the session is IDLE, and the request is refused STATE. -/
def takeForeground (tag : Tag) (type : Byte) (write : Bool) (lba count : Nat) (blocks : List Block) (s : State) : State :=
  match s.plan.array with
  | none => refuse tag type .state s
  | some g =>
    match fgRefusal g lba count s with
    | some why => refuse tag type why s
    | none => acceptFg g (newEntry g tag write lba count blocks s.now) s

end Sys2Proof.Machine
end

