-- ==== Sys2Proof/Machine/Plan.lean ====
section
/-! DEFINITION. The plan store: staging, commit and its effects, and what the governor, the monitors and the control link unit answer at
once (R16 to R30, R90, R171, R184). -/

namespace Sys2Proof.Machine
open Sys2Proof

/-- The plan store's contents are replaced. -/
def setPlan (p : PlanStore) (s : State) : State := { s with plan := p }

/-- A request whose fields are checked: refused RANGE at the first field out of range, otherwise carried out and answered DONE (R16). -/
def checked (tag : Tag) (type : Byte) (field : Option Nat) (carry : State → State) (s : State) : State :=
  match field with
  | some n => refuse tag type (.range n) s
  | none => answer tag type .done .none (carry s)

/-- STAGE-ARRAY (R17). -/
def takeStageArray (tag : Tag) (g : ArrayGroup) (s : State) : State :=
  checked tag 0x03 (arrayField g) (setPlan { s.plan with stagedArray := g, stagedValid := true }) s

/-- STAGE-POLICY (R18). -/
def takeStagePolicy (tag : Tag) (f : PolicyFields) (s : State) : State :=
  checked tag 0x04 (policyField f) (setPlan { s.plan with stagedPolicy := policyGroup f }) s

/-- STAGE-WINDOW (R19). -/
def takeStageWindow (tag : Tag) (f : WindowFields) (s : State) : State :=
  checked tag 0x05 (windowField f)
    (setPlan { s.plan with stagedWindows := putAt s.plan.stagedWindows f.index (windowOf f) }) s

/-- The staged ARRAY group's first failing commit check: one that is not valid holds zeros and fails check 1 (R22). -/
def stagedCheck (p : PlanStore) : Option Nat := if p.stagedValid then commitCheck p.stagedArray else some 1

/-- The first check that a COMMIT fails (R21). -/
def commitRefusal (names : Groups) (s : State) : Option Reason :=
  if s.session.state = .draining then some .state
  else if names.array ∧ s.session.state ≠ .idle then some .state
  else
    match (if names.array then stagedCheck s.plan else none) with
    | some n => some (.invalidPlan n)
    | none =>
      if names.policy ∧ s.plan.stagedPolicy.lossLimit < s.losses.length then some .limitBelowCount else none

/-- The named staged groups replace the active ones, as one change (R23). -/
def latched (names : Groups) (p : PlanStore) : PlanStore :=
  { p with
    array := if names.array then some p.stagedArray else p.array
    policy := if names.policy then p.stagedPolicy else p.policy
    windows := if names.windows then p.stagedWindows else p.windows }

/-- The classes are derived from the active windows and the hold-waiting flag is evaluated, if the table holds records (R30, R60). -/
def classesLatched (s : State) : State :=
  if s.table.extents = [] then s
  else evalHold { s with table := { s.table with extents := reclassify s.plan.windows s.table.extents } }

/-- The groups are latched, with their effects: the classes, which are part of the latch, then the target level, then the waking that a
WINDOWS latch makes (R23, R25, R30, R60, R92). Without records there is no candidate, and nothing wakes. -/
def latch (names : Groups) (s : State) : State :=
  let s1 := setPlan (latched names s.plan) s
  let s2 := if names.windows then classesLatched s1 else s1
  let s3 := if names.policy then retarget s2 else s2
  if names.windows then wakeLanes s3 else s3

/-- COMMIT (R21). -/
def takeCommit (tag : Tag) (names : Groups) (s : State) : State :=
  match commitRefusal names s with
  | some why => refuse tag 0x06 why s
  | none => answer tag 0x06 .done .none (latch names s)

/-- SET-RATE (R90). -/
def takeSetRate (tag : Tag) (level : Nat) (s : State) : State :=
  checked tag 0x0E (levelField level) (fun t => retarget { t with governor := { t.governor with commanded := level } }) s

/-- SET-MONITOR (R171). -/
def takeSetMonitor (tag : Tag) (f : MonitorFields) (s : State) : State :=
  checked tag 0x0F (monitorField f) (fun t => { t with monitors := putAt t.monitors f.number (monitorOf f) }) s

/-- The items of IDENTIFY's table before the reset cause (R184). -/
def identity : List Nat :=
  [Config.vendor, Config.part, Config.revision, Config.channels, Config.lanes, Config.buffers, Config.queueRoom, Config.lossRoom,
    Config.aheadRoom, Config.extentRoom, Config.windows, Config.monitors]

/-- IDENTIFY (R184). -/
def takeIdentify (tag : Tag) (s : State) : State := answer tag 0x01 .done (.identify identity s.link.resetCause) s

end Sys2Proof.Machine
end

