-- ==== Sys2Proof/Machine/Queries.lean ====
section
/-! DEFINITION. The queries: each answered at once by the owner of its subject, changing nothing but the reply queue (R179). -/

namespace Sys2Proof.Machine
open Sys2Proof

/-- A query is answered DONE with its contents. -/
def report (tag : Tag) (r : Result) (s : State) : State := answer tag 0x07 .done r s

/-- The writer's state as QUERY SESSION names it. -/
def writerKind (w : Writer) : WriterKind :=
  match w.state with
  | .idle => .idle
  | .writing _ => .writing
  | .reading _ => .reading

/-- The contents of QUERY SESSION (R54). -/
def sessionReport (s : State) : Result :=
  .session s.session.state s.session.longOp (extentCounts s.table) s.table.ahead.length s.losses.length s.plan.policy.lossLimit
    (writerKind s.writer) s.writer.next s.writer.slot

/-- The active ARRAY group with its derived quantities (R31). -/
def activeArray (g : ArrayGroup) : ActiveArray :=
  { group := g, blocks := stripBlocks g, data := stripeData g, capacity := capacity g, extents := extentCount g }

/-- The contents of QUERY PLAN (R31). -/
def planReport (s : State) : Result :=
  .plan
    { stagedArray := s.plan.stagedArray, stagedValid := s.plan.stagedValid, stagedPolicy := s.plan.stagedPolicy
      stagedWindows := s.plan.stagedWindows, array := s.plan.array.map activeArray, policy := s.plan.policy, windows := s.plan.windows }

/-- The refusal of a QUERY EXTENTS: STATE without records, then the count, then the first index (R75). -/
def extentsRefusal (q : IndexSpan) (t : ExtentTable) : Option Reason :=
  if t.extents = [] then some .state
  else if !within 1 q.count 256 then some (.range 2)
  else if t.extents.length ≤ q.first then some (.range 1)
  else none

/-- The extents a QUERY EXTENTS covers (R75). -/
def extentRows (g : ArrayGroup) (q : IndexSpan) (t : ExtentTable) : List ExtentReport :=
  ((t.extents.zipIdx.drop q.first).take q.count).map fun p => { index := p.2, length := extentLength g p.2, record := p.1 }

/-- The stripes of the ahead set that lie in the covered extents (R75). -/
def aheadRows (g : ArrayGroup) (q : IndexSpan) (t : ExtentTable) : List Nat :=
  t.ahead.filter fun n => q.first ≤ n / g.extentSize && n / g.extentSize < q.first + q.count

/-- QUERY EXTENTS (R75). -/
def takeQueryExtents (tag : Tag) (q : IndexSpan) (s : State) : State :=
  match extentsRefusal q s.table, s.plan.array with
  | some why, _ => refuse tag 0x07 why s
  | none, none => refuse tag 0x07 .state s
  | none, some g =>
    report tag (.extents s.table.extents.length s.table.holdWaiting (extentRows g q s.table) (aheadRows g q s.table)) s

/-- The refusal of a QUERY LOSSES (R152). -/
def lossesRefusal (q : IndexSpan) (s : State) : Option Reason :=
  if s.session.state = .idle ∨ s.session.state = .restoring then some .state
  else if !within 1 q.count 64 then some (.range 2)
  else none

/-- QUERY LOSSES (R152). -/
def takeQueryLosses (tag : Tag) (q : IndexSpan) (s : State) : State :=
  match lossesRefusal q s with
  | some why => refuse tag 0x07 why s
  | none => report tag (.losses s.losses.length s.plan.policy.lossLimit ((s.losses.drop q.first).take q.count)) s

/-- A command in an issue list is an orphan. -/
def isOrphan (i : Issued) : Bool :=
  match i.cmd.issuer with
  | .orphan _ => true
  | _ => false

/-- What QUERY CHANNELS reports of one channel (R147). -/
def channelReport (r : ChannelRec) : ChannelReport :=
  { role := r.role, failed := r.failed, linkPresent := r.linkPresent, resetAwaited := r.resetAwaited, errors := r.errors
    issued := r.issued.length, orphans := r.issued.countP isOrphan, fgPending := r.fgPending.length
    rebuildPending := r.rebuildPending.length }

/-- The contents of QUERY CHANNELS (R147). -/
def channelsReport (s : State) : Result := .channels (s.chans.toList.map channelReport)

/-- What QUERY RATE reports of one lane (R95). -/
def laneReport (r : LaneRec) : LaneReport := { state := r.state, extent := r.extent, stripe := r.stripe }

/-- The contents of QUERY RATE (R95). -/
def rateReport (s : State) : Result :=
  .rate s.governor.commanded s.plan.policy.ceiling s.governor.limit s.governor.target s.governor.effective
    (loweringPending s.governor) (s.governor.quiet.map (· - s.now)) (workingLanes s.lanes) (s.lanes.toList.map laneReport)

/-- The contents of QUERY MONITORS (R172). -/
def monitorsReport (s : State) : Result := .monitors s.monitors.toList

end Sys2Proof.Machine
end

