-- ==== Sys2Proof/Machine/Control.lean ====
section
/-! DEFINITION. The session requests: START, RESTORE, PAUSE, CONTINUE, ABORT, RELEASE (R34 to R51). -/

namespace Sys2Proof.Machine
open Sys2Proof

/-- The channels START examines, in order: the surviving slots ascending, then the spare (R35). -/
def startChannels (g : ArrayGroup) : List Chan := (survivorSlots g).map (mappedChan g) ++ [spareChan g]

/-- The first of some channels whose link is not present. -/
def firstAbsent (cs : List Chan) (s : State) : Option Chan := cs.find? fun c => !s.chans[c].linkPresent

/-- The first three checks of START and RESTORE, and the link check on the given channels; the ARRAY group when all pass (R35, R38). -/
def beginCheck (examined : ArrayGroup → List Chan) (s : State) : Except Reason ArrayGroup :=
  if s.session.longOp.isSome then .error .busy
  else if s.session.state ≠ .idle then .error .state
  else
    match s.plan.array with
    | none => .error .state
    | some g =>
      match firstAbsent (examined g) s with
      | some c => .error (.noLink c.val)
      | none => .ok g

/-- START is taken: STARTING, the extent records, empty lists, the roles, the first record (R36, R57, R162). -/
def beginStart (g : ArrayGroup) (tag : Tag) (s : State) : State :=
  let s1 := setSession .starting (beginLong .start tag s)
  let s2 := evalHold { s1 with table := { s1.table with extents := freshExtents g s1.plan.windows, ahead := [] } }
  let s3 := giveRoles g .target (setLosses [] s2)
  beginWrite .running (setWriter { s3.writer with next := .seq 1, slot := .a } s3)

/-- START (R35). -/
def takeStart (tag : Tag) (s : State) : State :=
  match beginCheck startChannels s with
  | .error why => refuse tag 0x08 why s
  | .ok g => beginStart g tag s

/-- The reads of a RESTORE before any has ended (R155, R163). -/
def freshReads : CkptReads := { a := .notRead, b := .notRead, current := .a, attempts := 1 }

/-- RESTORE is taken: RESTORING, the spare channel TARGET, the read of slot A (R38, R163). -/
def beginRestore (g : ArrayGroup) (tag : Tag) (s : State) : State :=
  let s1 := setSession .restoring (beginLong .restore tag s)
  let s2 := setChan (spareChan g) { s1.chans[spareChan g] with role := .target } s1
  readSlot g .a (setWriter { s2.writer with state := .reading freshReads } s2)

/-- RESTORE (R38). -/
def takeRestore (tag : Tag) (s : State) : State :=
  match beginCheck (fun g => [spareChan g]) s with
  | .error why => refuse tag 0x09 why s
  | .ok g => beginRestore g tag s

/-- PAUSE (R34, R41). -/
def takePause (tag : Tag) (s : State) : State :=
  if s.session.longOp.isSome then refuse tag 0x0A .busy s
  else
    match s.session.state with
    | .running false => reportIfParked (enterPausing .request (beginLong .pause tag s))
    | .running true => refuse tag 0x0A .busy s
    | _ => refuse tag 0x0A .state s

/-- CONTINUE (R44). Its reply is handed over before RUNNING is entered and its notice raised (log entry 14). -/
def takeContinue (tag : Tag) (s : State) : State :=
  if s.session.state = .paused ∨ s.session.state = .lossStop then
    if s.plan.policy.lossLimit ≤ s.losses.length then refuse tag 0x0B .limitBelowCount s
    else enterRunning (answer tag 0x0B .done .none s)
  else refuse tag 0x0B .state s

/-- RESTORE or ABORT is in flight (R34). -/
def abortBusy (op : Option LongOp) : Bool := op.any fun o => o.kind = .restore || o.kind = .abort

/-- ABORT (R34, R46). -/
def takeAbort (tag : Tag) (s : State) : State :=
  if abortBusy s.session.longOp then refuse tag 0x0C .busy s
  else if sessionLive s.session.state then enterDraining tag s
  else refuse tag 0x0C .state s

/-- The states RELEASE ends (R51). -/
def releasable : SessionState → Bool
  | .complete | .halted _ | .targetFailed => true
  | _ => false

/-- Work stands in the way of RELEASE (R51). -/
def releaseBusy (s : State) : Bool :=
  !s.queue.isEmpty || orphanCount s ≠ 0 || writeInFlight s.writer || s.writer.waiting.isSome

/-- RELEASE (R51). Its reply is handed over before the return to IDLE and its notice (log entry 14). -/
def takeRelease (tag : Tag) (s : State) : State :=
  if releasable s.session.state then
    if releaseBusy s then refuse tag 0x0D .busy s else returnToIdle (answer tag 0x0D .done .none s)
  else refuse tag 0x0D .state s

end Sys2Proof.Machine
end

