-- ==== Sys2Proof/Machine/Requests.lean ====
section
/-! DEFINITION. Dispatch and the receiver: the checks of a record, the owners of the requests, records held back, bytes searched for
records (R175, R176, R178). -/

namespace Sys2Proof.Machine
open Sys2Proof

/-- What takes a request when its body is present. -/
def withBody {α : Type} (body : Option α) (take : α → State → State) (s : State) : State :=
  match body with
  | some b => take b s
  | none => s

/-- A request is handed to the block that owns it (R176, check 5; R178, R179). -/
def handToOwner (tag : Tag) (r : Request) (s : State) : State :=
  match r with
  | .identify b => withBody b (fun _ => takeIdentify tag) s
  | .reset => State.afterReset .command s.pending
  | .stageArray b => withBody b (takeStageArray tag) s
  | .stagePolicy b => withBody b (takeStagePolicy tag) s
  | .stageWindow b => withBody b (takeStageWindow tag) s
  | .commit b => withBody b (takeCommit tag) s
  | .querySession b => withBody b (fun _ s => report tag (sessionReport s) s) s
  | .queryPlan b => withBody b (fun _ s => report tag (planReport s) s) s
  | .queryExtents b => withBody b (takeQueryExtents tag) s
  | .queryLosses b => withBody b (takeQueryLosses tag) s
  | .queryChannels b => withBody b (fun _ s => report tag (channelsReport s) s) s
  | .queryRate b => withBody b (fun _ s => report tag (rateReport s) s) s
  | .queryMonitors b => withBody b (fun _ s => report tag (monitorsReport s) s) s
  | .queryUnknown => s
  | .start b => withBody b (fun _ => takeStart tag) s
  | .restore b => withBody b (fun _ => takeRestore tag) s
  | .pause b => withBody b (fun _ => takePause tag) s
  | .continueSession b => withBody b (fun _ => takeContinue tag) s
  | .abort b => withBody b (fun _ => takeAbort tag) s
  | .release b => withBody b (fun _ => takeRelease tag) s
  | .setRate b => withBody b (takeSetRate tag) s
  | .setMonitor b => withBody b (takeSetMonitor tag) s
  | .readBlocks b => withBody b (fun f => takeForeground tag 0x10 false f.lba.toNat f.count.toNat []) s
  | .writeBlocks b => withBody b (fun f => takeForeground tag 0x11 true f.lba.toNat f.count.toNat f.blocks) s
  | .unknown t => refuse tag t .unknown s

/-- Dispatch takes a record with a right check: unknown type, RESET, outstanding tag, body, owner (R176). -/
def dispatch (tag : Tag) (r : Request) (s : State) : State :=
  match r with
  | .unknown t => refuse tag t .unknown s
  | .reset => State.afterReset .command s.pending
  | r =>
    if tagOutstanding s tag then refuse tag (typeCode r) .tagInUse s
    else if !parses r then refuse tag (typeCode r) .malformed s
    else handToOwner tag r s

/-- Dispatch holds the record in hand: the reply queue holds 15 replies or more (R176). -/
def mustHold (s : State) : Bool := Config.holdAt ≤ s.link.replies.length

/-- The control link unit is replaced. -/
def setLink (l : ControlLink) (s : State) : State := { s with link := l }

/-- The receiver keeps the bytes of a record that is not whole (R175). -/
def gather (bs : List Byte) (s : State) : State :=
  setLink { s.link with gathered := bs, hunting := if 2 ≤ bs.length then .frame else .hunt } s

/-- The receiver returns to HUNT with nothing gathered (R175). -/
def backToHunt (s : State) : State := setLink { s.link with gathered := [], hunting := .hunt } s

/-- The notice LINK-ERROR (R175). -/
def raiseLinkError (why : LinkErrorReason) (type : Byte) (s : State) : State :=
  raiseNotice .linkError 255 (.linkError why type) s

/-- Bytes that the receiver may not gather yet stand before whatever else is held back (R176). -/
def holdBytes (bs : List Byte) (s : State) : State :=
  setLink { s.link with held := if bs = [] then s.link.held else .bytes bs :: s.link.held } s

/-- The receiver searches bytes until none is left to search, or a record it has handed over fills the reply queue to 15 and it may
gather no more, or a RESET is taken (R175, R176, R185). Each record found or discarded is at least two bytes long, so the bytes bound
the search. -/
def searchBytes : Nat → List Byte → State → State
  | 0, bs, s => gather bs s
  | n + 1, bs, s =>
    match scan bs with
    | .more rest => gather rest s
    | .bad why type rest => searchBytes n rest (raiseLinkError why type s)
    | .record type tag body rest =>
      let r := requestFrom s.link.carried type body
      let t := dispatch tag r (backToHunt s)
      if r = .reset then t else if mustHold t then holdBytes rest t else searchBytes n rest t

/-- The receiver takes bytes behind those it has gathered (R175). -/
def takeBytes (bs : List Byte) (s : State) : State :=
  searchBytes ((s.link.gathered ++ bs).length + 1) (s.link.gathered ++ bs) s

/-- A request that arrives while the receiver gathers a frame is no record of its own: its bytes are gathered into that frame (R175). -/
def takeAsBytes (tag : Tag) (r : Request) (s : State) : State :=
  takeBytes (frame (typeCode r) tag (bodyBytes r)) (setLink { s.link with carried := r :: s.link.carried } s)

/-- What arrives on the control link is taken: in HUNT a whole record is found at its start code and dispatched (R175, R176). -/
def takeInbound (x : Inbound) (s : State) : State :=
  match x with
  | .record tag r => if s.link.hunting = .frame then takeAsBytes tag r s else dispatch tag r (backToHunt s)
  | .bytes bs => takeBytes bs s

/-- What arrives on the control link is taken, or held back while dispatch holds a record or must hold one (R176). -/
def receive (x : Inbound) (s : State) : State :=
  if mustHold s || !s.link.held.isEmpty then setLink { s.link with held := s.link.held ++ [x] } s else takeInbound x s

/-- The record that dispatch holds is taken when the reply queue holds fewer than 15 replies (R176). -/
def takeHeld (s : State) : State :=
  if mustHold s then s
  else
    match s.link.held with
    | [] => s
    | x :: rest => takeInbound x (setLink { s.link with held := rest } s)

end Sys2Proof.Machine
end

