-- ==== Sys2Proof/Machine/RequestCommands.lean ====
section
/-! DEFINITION. The commands of the request family: what arrives on the control link, and what the control link unit does of itself. A request arrives
as a record with a right check, and dispatch takes it or holds it back (R176). -/

namespace Sys2Proof.Machine
open Sys2Proof

/-- POWER_ON_RESET: every block takes its reset state, with cause POWER (R185). -/
def execPowerOnReset (s : State) : Host.Outcome State Fault Refusal := .next (State.afterReset .power s.pending)

/-- RESET: the request, taken at dispatch, whatever its tag and body (R176, R185). -/
def execReset (tag : Tag) (s : State) : Host.Outcome State Fault Refusal := .next (receive (.record tag .reset) s)

/-- IDENTIFY (R184). -/
def execIdentify (tag : Tag) (body : Option Unit) (s : State) : Host.Outcome State Fault Refusal :=
  .next (receive (.record tag (.identify body)) s)

/-- STAGE_ARRAY (R17). -/
def execStageArray (tag : Tag) (body : Option ArrayGroup) (s : State) : Host.Outcome State Fault Refusal :=
  .next (receive (.record tag (.stageArray body)) s)

/-- STAGE_POLICY (R18). -/
def execStagePolicy (tag : Tag) (body : Option PolicyFields) (s : State) : Host.Outcome State Fault Refusal :=
  .next (receive (.record tag (.stagePolicy body)) s)

/-- STAGE_WINDOW (R19). -/
def execStageWindow (tag : Tag) (body : Option WindowFields) (s : State) : Host.Outcome State Fault Refusal :=
  .next (receive (.record tag (.stageWindow body)) s)

/-- COMMIT (R21). -/
def execCommit (tag : Tag) (body : Option Groups) (s : State) : Host.Outcome State Fault Refusal :=
  .next (receive (.record tag (.commit body)) s)

/-- QUERY_SESSION (R54). -/
def execQuerySession (tag : Tag) (body : Option Unit) (s : State) : Host.Outcome State Fault Refusal :=
  .next (receive (.record tag (.querySession body)) s)

/-- QUERY_PLAN (R31). -/
def execQueryPlan (tag : Tag) (body : Option Unit) (s : State) : Host.Outcome State Fault Refusal :=
  .next (receive (.record tag (.queryPlan body)) s)

/-- QUERY_EXTENTS (R75). -/
def execQueryExtents (tag : Tag) (body : Option IndexSpan) (s : State) : Host.Outcome State Fault Refusal :=
  .next (receive (.record tag (.queryExtents body)) s)

/-- QUERY_LOSSES (R152). -/
def execQueryLosses (tag : Tag) (body : Option IndexSpan) (s : State) : Host.Outcome State Fault Refusal :=
  .next (receive (.record tag (.queryLosses body)) s)

/-- QUERY_CHANNELS (R147). -/
def execQueryChannels (tag : Tag) (body : Option Unit) (s : State) : Host.Outcome State Fault Refusal :=
  .next (receive (.record tag (.queryChannels body)) s)

/-- QUERY_RATE (R95). -/
def execQueryRate (tag : Tag) (body : Option Unit) (s : State) : Host.Outcome State Fault Refusal :=
  .next (receive (.record tag (.queryRate body)) s)

/-- QUERY_MONITORS (R172). -/
def execQueryMonitors (tag : Tag) (body : Option Unit) (s : State) : Host.Outcome State Fault Refusal :=
  .next (receive (.record tag (.queryMonitors body)) s)

/-- START (R35). -/
def execStart (tag : Tag) (body : Option Unit) (s : State) : Host.Outcome State Fault Refusal :=
  .next (receive (.record tag (.start body)) s)

/-- RESTORE (R38). -/
def execRestore (tag : Tag) (body : Option Unit) (s : State) : Host.Outcome State Fault Refusal :=
  .next (receive (.record tag (.restore body)) s)

/-- PAUSE (R41). -/
def execPause (tag : Tag) (body : Option Unit) (s : State) : Host.Outcome State Fault Refusal :=
  .next (receive (.record tag (.pause body)) s)

/-- CONTINUE (R44). -/
def execContinueSession (tag : Tag) (body : Option Unit) (s : State) : Host.Outcome State Fault Refusal :=
  .next (receive (.record tag (.continueSession body)) s)

/-- ABORT (R46). -/
def execAbort (tag : Tag) (body : Option Unit) (s : State) : Host.Outcome State Fault Refusal :=
  .next (receive (.record tag (.abort body)) s)

/-- RELEASE (R51). -/
def execRelease (tag : Tag) (body : Option Unit) (s : State) : Host.Outcome State Fault Refusal :=
  .next (receive (.record tag (.release body)) s)

/-- SET_RATE (R90). -/
def execSetRate (tag : Tag) (body : Option Nat) (s : State) : Host.Outcome State Fault Refusal :=
  .next (receive (.record tag (.setRate body)) s)

/-- SET_MONITOR (R171). -/
def execSetMonitor (tag : Tag) (body : Option MonitorFields) (s : State) : Host.Outcome State Fault Refusal :=
  .next (receive (.record tag (.setMonitor body)) s)

/-- READ_BLOCKS (R115). -/
def execReadBlocks (tag : Tag) (body : Option RunFields) (s : State) : Host.Outcome State Fault Refusal :=
  .next (receive (.record tag (.readBlocks body)) s)

/-- WRITE_BLOCKS (R115). -/
def execWriteBlocks (tag : Tag) (body : Option WriteFields) (s : State) : Host.Outcome State Fault Refusal :=
  .next (receive (.record tag (.writeBlocks body)) s)

/-- UNKNOWN_TYPE_RECORD: answered REFUSED UNKNOWN (R176, check 1). -/
def execUnknownTypeRecord (type : Byte) (tag : Tag) (s : State) : Host.Outcome State Fault Refusal :=
  .next (receive (.record tag (.unknown type)) s)

/-- LINK_ERROR: bytes that hold a frame with an impossible length or a wrong check (R175). -/
def execLinkError (bytes : List Byte) (s : State) : Host.Outcome State Fault Refusal := .next (receive (.bytes bytes) s)

/-- HELD_RECORD_DISPATCH (R176). -/
def execHeldRecordDispatch (s : State) : Host.Outcome State Fault Refusal := .next (takeHeld s)

/-- The sender finishes the record it is sending, and chooses the next (R182). -/
def finishRecord (p : PolicyGroup) (l : ControlLink) : ControlLink :=
  match l.sender with
  | .idle => l
  | .sending r => chooseNext p { l with sent := l.sent ++ [r] }

/-- RECORD_SENT (R182). -/
def execRecordSent (s : State) : Host.Outcome State Fault Refusal := .next (setLink (finishRecord s.plan.policy s.link) s)

end Sys2Proof.Machine
end

