-- ==== Sys2Proof/Machine/ChannelCommands.lean ====
section
/-! DEFINITION. The commands of the strip links, and the session controller's share in a FAILED declaration. -/

namespace Sys2Proof.Machine
open Sys2Proof

/-- STRIP_COMPLETION (R139). -/
def execStripCompletion (c : Chan) (number : Word32) (status : StripStatus) (s : State) : Host.Outcome State Fault Refusal :=
  .next (takeCompletion c number status s)

/-- LINK_DOWN (R143, R146). -/
def execLinkDown (c : Chan) (s : State) : Host.Outcome State Fault Refusal := .next (takeLinkDown c (takeResetAnswer c s))

/-- A link-up indication: link present; a channel whose reset answer it is is served (R137, R143, R146). -/
def takeLinkUp (c : Chan) (s : State) : State :=
  let s1 := takeResetAnswer c (setChan c { s.chans[c] with linkPresent := true } s)
  if s.chans[c].resetAwaited then serveChannel c s1 else s1

/-- LINK_UP (R143, R146). -/
def execLinkUp (c : Chan) (s : State) : Host.Outcome State Fault Refusal := .next (takeLinkUp c s)

/-- COMMAND_TIMEOUT (R138). -/
def execCommandTimeout (c : Chan) (number : Word32) (s : State) : Host.Outcome State Fault Refusal := .next (takeTimeout c number s)

/-- COMMAND_ISSUE (R137). -/
def execCommandIssue (c : Chan) (s : State) : Host.Outcome State Fault Refusal := .next (issueOne c s)

/-- The session controller takes the first declaration of a channel that was handed to it (R144). -/
def takeFirstTold (c : Chan) (s : State) : State :=
  match takeFirst (fun t => t.chan = c) s.mail.told with
  | some (t, rest) => takeTold t { s with mail := { s.mail with told := rest } }
  | none => s

/-- CHANNEL_FAILED_TOLD (R48, R49, R50). -/
def execChannelFailedTold (c : Chan) (s : State) : Host.Outcome State Fault Refusal := .next (takeFirstTold c s)

end Sys2Proof.Machine
end

