-- ==== Sys2Proof/Machine/LaneCommands.lean ====
section
/-! DEFINITION. The commands of the rebuild: claims, grants, reservations, the endings a lane takes, the rate governor's signals and timer. -/

namespace Sys2Proof.Machine
open Sys2Proof

/-- The extent table takes a lane's claim, if one was handed to it, and hands the answer back (R62, R63). -/
def answerClaim (l : Lane) (s : State) : State :=
  match s.plan.array with
  | none => s
  | some g =>
    if s.mail.claims.contains l then
      let r := takeClaim g l { s with mail := { s.mail with claims := s.mail.claims.erase l } }
      { r.2 with mail := { r.2.mail with answers := r.2.mail.answers ++ [{ lane := l, given := r.1 }] } }
    else s

/-- CLAIM (R62). -/
def execClaim (l : Lane) (s : State) : Host.Outcome State Fault Refusal := .next (answerClaim l s)

/-- The lane engine takes a claim's answer: a CLAIMING lane begins the stripe at the cursor or parks; any other lane's answer is
discarded (R87). -/
def useAnswer (g : ArrayGroup) (a : ClaimAnswer) (s : State) : State :=
  if s.lanes[a.lane].state = .claiming then
    match a.given with
    | none => parkLane a.lane s
    | some (x, _, _) => takeUpStripe g a.lane (setLane a.lane { s.lanes[a.lane] with extent := some x } s)
  else s

/-- The first answer for a lane is taken. -/
def takeAnswer (l : Lane) (s : State) : State :=
  match s.plan.array, takeFirst (fun a => a.lane = l) s.mail.answers with
  | some g, some (a, rest) => useAnswer g a { s with mail := { s.mail with answers := rest } }
  | _, _ => s

/-- CLAIM_ANSWER (R87). -/
def execClaimAnswer (l : Lane) (s : State) : Host.Outcome State Fault Refusal := .next (takeAnswer l s)

/-- An operation whose waiting lock request has been granted asks for its buffers (R78, R116). -/
def useGrant (g : ArrayGroup) (op : OpName) (s : State) : State :=
  match op with
  | .lane l => if s.lanes[l].state = .lockWait then enterBufferWait g l s else s
  | .fg tag =>
    match fgEntry tag s with
    | some e => if e.stage = .lockWait then fgBuffers g e s else s
    | none => s

/-- A grant made by FIFO service is taken, if one was handed over (R101). -/
def takeLockGrant (op : OpName) (s : State) : State :=
  match s.plan.array, takeGrant op s with
  | some g, some t => useGrant g op t
  | _, _ => s

/-- LOCK_GRANT (R101). -/
def execLockGrant (op : OpName) (s : State) : Host.Outcome State Fault Refusal := .next (takeLockGrant op s)

/-- An operation whose buffers are reserved goes on: a lane hands over its reads, a foreground operation plans its first phase (R79,
R116). -/
def useReservation (g : ArrayGroup) (op : OpName) (s : State) : State :=
  match op with
  | .lane l =>
    match s.lanes[l].state, s.lanes[l].stripe with
    | .bufferWait, some stripe => enterReading g l stripe s
    | _, _ => s
  | .fg tag =>
    match fgEntry tag s with
    | some e => if e.stage = .bufferWait then planFirst g e s else s
    | none => s

/-- A reservation is taken, if one was handed over (R106, R107). -/
def takeBuffers (op : OpName) (s : State) : State :=
  match s.plan.array, takeReservation op s with
  | some g, some t => useReservation g op t
  | _, _ => s

/-- BUFFER_RESERVATION (R107). -/
def execBufferReservation (op : OpName) (s : State) : Host.Outcome State Fault Refusal := .next (takeBuffers op s)

/-- The ending of a READING lane's read on a channel is taken (R80). -/
def laneRead (l : Lane) (c : Chan) (s : State) : State :=
  match s.plan.array, s.lanes[l].state, s.lanes[l].stripe, takeEnding (.lane l) false (some c) s with
  | some g, .reading, some stripe, some (e, t) => takeLaneRead g l stripe c e.status t
  | _, _, _, _ => s

/-- LANE_READ_COMPLETION (R80). -/
def execLaneReadCompletion (l : Lane) (c : Chan) (s : State) : Host.Outcome State Fault Refusal := .next (laneRead l c s)

/-- The ending of a WRITING lane's spare write is taken (R84, R85). -/
def laneWrite (l : Lane) (s : State) : State :=
  match s.plan.array, s.lanes[l].state, s.lanes[l].extent, s.lanes[l].stripe, takeEnding (.lane l) true none s with
  | some g, .writing, some x, some stripe, some (e, t) => takeLaneWrite g l x stripe e.status t
  | _, _, _, _, _ => s

/-- LANE_WRITE_COMPLETION (R84). -/
def execLaneWriteCompletion (l : Lane) (s : State) : Host.Outcome State Fault Refusal := .next (laneWrite l s)

/-- A signal handed to the rate governor is taken (R93). -/
def governSignal (s : State) : State :=
  if s.mail.signals = 0 then s else takeSignal { s with mail := { s.mail with signals := s.mail.signals - 1 } }

/-- GOVERN_SIGNAL (R93). -/
def execGovernSignal (s : State) : Host.Outcome State Fault Refusal := .next (governSignal s)

/-- The quiet timer expires, if it runs. The clock is at the expiry, if it was not past it (R94). -/
def quietTimer (s : State) : State :=
  match s.governor.quiet with
  | some t => quietExpires { s with now := max s.now t }
  | none => s

/-- QUIET_TIMER_EXPIRY (R94). -/
def execQuietTimerExpiry (s : State) : Host.Outcome State Fault Refusal := .next (quietTimer s)

end Sys2Proof.Machine
end

