-- ==== Sys2Proof/Machine/EndingCommands.lean ====
section
/-! DEFINITION. The endings a foreground operation takes, and the commands of the checkpoint writer and of draining. -/

namespace Sys2Proof.Machine
open Sys2Proof

/-- The ending of a foreground operation's read on a channel is taken (R118). -/
def fgRead (tag : Tag) (c : Chan) (s : State) : State :=
  match s.plan.array, fgEntry tag s, takeEnding (.fg tag) false (some c) s with
  | some g, some e, some (x, t) =>
    match outstandingOn e.plan c with
    | some q => takeFgRead g e q x.status t
    | none => s
  | _, _, _ => s

/-- FG_READ_COMPLETION (R118). -/
def execFgReadCompletion (tag : Tag) (c : Chan) (s : State) : Host.Outcome State Fault Refusal := .next (fgRead tag c s)

/-- The ending of a foreground write's write on a channel is taken (R128). -/
def fgWrite (tag : Tag) (c : Chan) (s : State) : State :=
  match s.plan.array, fgEntry tag s, takeEnding (.fg tag) true (some c) s with
  | some g, some e, some (x, t) =>
    match outstandingOn e.plan c with
    | some q => takeFgWrite g e q x.status t
    | none => s
  | _, _, _ => s

/-- FG_WRITE_COMPLETION (R128). -/
def execFgWriteCompletion (tag : Tag) (c : Chan) (s : State) : Host.Outcome State Fault Refusal := .next (fgWrite tag c s)

/-- A trigger handed to the checkpoint writer is taken (R160). -/
def checkpointTrigger (s : State) : State :=
  if s.mail.triggers = 0 then s else takeTrigger { s with mail := { s.mail with triggers := s.mail.triggers - 1 } }

/-- CHECKPOINT_TRIGGER (R160). -/
def execCheckpointTrigger (s : State) : Host.Outcome State Fault Refusal := .next (checkpointTrigger s)

/-- The period timer expires, if it runs: it starts afresh, and the expiry is taken as a trigger. The clock is at the expiry, if it was
not past it (R159). -/
def periodTimer (s : State) : State :=
  match s.writer.period with
  | some t => takeTrigger (startPeriod { s with now := max s.now t })
  | none => s

/-- PERIOD_TIMER_EXPIRY (R159). -/
def execPeriodTimerExpiry (s : State) : Host.Outcome State Fault Refusal := .next (periodTimer s)

/-- The ending of the writer's write is taken (R157, R158). -/
def checkpointWrite (s : State) : State :=
  match s.plan.array, s.writer.state, takeEnding .checkpoint true none s with
  | some g, .writing w, some (e, t) => takeWriteEnding g w e.status t
  | _, _, _ => s

/-- CHECKPOINT_WRITE_COMPLETION (R157). -/
def execCheckpointWriteCompletion (s : State) : Host.Outcome State Fault Refusal := .next (checkpointWrite s)

/-- The ending of the writer's read is taken (R163). -/
def checkpointRead (s : State) : State :=
  match s.plan.array, s.writer.state, takeEnding .checkpoint false none s with
  | some g, .reading r, some (e, t) => takeReadEnding g r e.status t
  | _, _, _ => s

/-- CHECKPOINT_READ_COMPLETION (R163). -/
def execCheckpointReadCompletion (s : State) : Host.Outcome State Fault Refusal := .next (checkpointRead s)

/-- DRAIN_END (R47). -/
def execDrainEnd (s : State) : Host.Outcome State Fault Refusal := .next (judgeDrain s)

end Sys2Proof.Machine
end

