-- ==== Sys2Proof/Machine/Dispatch.lean ====
section
/-! DEFINITION. One arm for each command: what it does to everything but the queue. -/

namespace Sys2Proof.Machine
open Sys2Proof

def exec (i : Instr) (s : State) : Host.Outcome State Fault Refusal :=
  match i with
  | .powerOnReset => Sys2Proof.Machine.execPowerOnReset s
  | .reset tag => Sys2Proof.Machine.execReset tag s
  | .identify tag body => Sys2Proof.Machine.execIdentify tag body s
  | .stageArray tag body => Sys2Proof.Machine.execStageArray tag body s
  | .stagePolicy tag body => Sys2Proof.Machine.execStagePolicy tag body s
  | .stageWindow tag body => Sys2Proof.Machine.execStageWindow tag body s
  | .commit tag body => Sys2Proof.Machine.execCommit tag body s
  | .querySession tag body => Sys2Proof.Machine.execQuerySession tag body s
  | .queryPlan tag body => Sys2Proof.Machine.execQueryPlan tag body s
  | .queryExtents tag body => Sys2Proof.Machine.execQueryExtents tag body s
  | .queryLosses tag body => Sys2Proof.Machine.execQueryLosses tag body s
  | .queryChannels tag body => Sys2Proof.Machine.execQueryChannels tag body s
  | .queryRate tag body => Sys2Proof.Machine.execQueryRate tag body s
  | .queryMonitors tag body => Sys2Proof.Machine.execQueryMonitors tag body s
  | .start tag body => Sys2Proof.Machine.execStart tag body s
  | .restore tag body => Sys2Proof.Machine.execRestore tag body s
  | .pause tag body => Sys2Proof.Machine.execPause tag body s
  | .continueSession tag body => Sys2Proof.Machine.execContinueSession tag body s
  | .abort tag body => Sys2Proof.Machine.execAbort tag body s
  | .release tag body => Sys2Proof.Machine.execRelease tag body s
  | .setRate tag body => Sys2Proof.Machine.execSetRate tag body s
  | .setMonitor tag body => Sys2Proof.Machine.execSetMonitor tag body s
  | .readBlocks tag body => Sys2Proof.Machine.execReadBlocks tag body s
  | .writeBlocks tag body => Sys2Proof.Machine.execWriteBlocks tag body s
  | .unknownTypeRecord type tag => Sys2Proof.Machine.execUnknownTypeRecord type tag s
  | .linkError bytes => Sys2Proof.Machine.execLinkError bytes s
  | .heldRecordDispatch => Sys2Proof.Machine.execHeldRecordDispatch s
  | .recordSent => Sys2Proof.Machine.execRecordSent s
  | .stripCompletion chan number status => Sys2Proof.Machine.execStripCompletion chan number status s
  | .linkDown chan => Sys2Proof.Machine.execLinkDown chan s
  | .linkUp chan => Sys2Proof.Machine.execLinkUp chan s
  | .commandTimeout chan number => Sys2Proof.Machine.execCommandTimeout chan number s
  | .commandIssue chan => Sys2Proof.Machine.execCommandIssue chan s
  | .channelFailedTold chan => Sys2Proof.Machine.execChannelFailedTold chan s
  | .claim lane => Sys2Proof.Machine.execClaim lane s
  | .claimAnswer lane => Sys2Proof.Machine.execClaimAnswer lane s
  | .lockGrant op => Sys2Proof.Machine.execLockGrant op s
  | .bufferReservation op => Sys2Proof.Machine.execBufferReservation op s
  | .laneReadCompletion lane chan => Sys2Proof.Machine.execLaneReadCompletion lane chan s
  | .laneWriteCompletion lane => Sys2Proof.Machine.execLaneWriteCompletion lane s
  | .fgReadCompletion tag chan => Sys2Proof.Machine.execFgReadCompletion tag chan s
  | .fgWriteCompletion tag chan => Sys2Proof.Machine.execFgWriteCompletion tag chan s
  | .checkpointTrigger => Sys2Proof.Machine.execCheckpointTrigger s
  | .periodTimerExpiry => Sys2Proof.Machine.execPeriodTimerExpiry s
  | .checkpointWriteCompletion => Sys2Proof.Machine.execCheckpointWriteCompletion s
  | .checkpointReadCompletion => Sys2Proof.Machine.execCheckpointReadCompletion s
  | .drainEnd => Sys2Proof.Machine.execDrainEnd s
  | .governSignal => Sys2Proof.Machine.execGovernSignal s
  | .quietTimerExpiry => Sys2Proof.Machine.execQuietTimerExpiry s

end Sys2Proof.Machine
end

