-- ==== Sys2Proof/Machine/Step.lean ====
section
/-! DEFINITION. One step: the command at the front of the queue, or, on an empty queue, a millisecond of idling. -/

namespace Sys2Proof.Machine
open Sys2Proof

/-- The command at the front of the queue is taken and carried out on the state with the queue's rest. On an empty queue the part idles,
and a millisecond passes (log entry 7). -/
def step (s : State) : Host.Outcome State Fault Refusal :=
  match s.pending with
  | c :: rest => exec c { s with pending := rest }
  | [] => .next { s with now := s.now + 1 }

/-- The state with the command that a word spells put at the front of its queue; unchanged where the word spells none. -/
def State.withFetchWord (s : State) (nbits w : Nat) : State :=
  match decodeTableWord nbits w with
  | some c => { s with pending := c :: s.pending }
  | none => s

end Sys2Proof.Machine
end

