-- ==== Sys2Proof/Safety.lean ====
section
/-! DEFINITION. What the device promises of itself: the laws the manual calls laws of the device, as properties of one state, and the
conditions under which a record on the control link is dispatched as it arrives. -/

namespace Sys2Proof.Machine
open Sys2Proof

/-! ## Dispatch -/

/-- The receiver gathers what arrives now: the reply queue holds fewer than 15 replies, and nothing is held back (R176). -/
def Receives (s : State) : Prop := s.link.replies.length < 15 ∧ s.link.held = []

/-- A record that arrives now is dispatched now: the receiver gathers it, and stands in HUNT (R175, R176). -/
def Accepts (s : State) : Prop := Receives s ∧ s.link.hunting = .hunt

/-- A request with this tag that arrives now passes dispatch's third check (R176). -/
def Passes (tag : Tag) (s : State) : Prop := Accepts s ∧ tagOutstanding s tag = false

/-- The replies handed to the sender and not yet sent to their end, the oldest first (R182). -/
def owed (l : ControlLink) : List Reply :=
  match l.sender with
  | .sending (.reply r) => r :: l.replies
  | _ => l.replies

/-- A notice of a key with a last value is pending or being sent (R181, R182). -/
def Shown (k : NoticeKind) (subject : Nat) (v : NoticeValue) (l : ControlLink) : Prop :=
  ∃ n : Notice, (n ∈ l.notices ∨ l.sender = .sending (.notice n)) ∧ n.kind = k ∧ n.subject = subject ∧ n.value = v

/-- The reply of a request to the tag it carries. -/
def done (tag : Tag) (type : Byte) (r : Result) : Reply := { tag, type, answer := .done, result := r }

/-- The reply that refuses a request with a reason. -/
def refusal (tag : Tag) (type : Byte) (why : Reason) : Reply := { tag, type, answer := .refused why, result := .none }

/-! ## Fields out of range, by number (R17 to R22, R90, R171) -/

/-- A number is the first of those a property holds of. -/
def FirstOut (out : Nat → Prop) (n : Nat) : Prop := out n ∧ ∀ m < n, ¬ out m

/-- Field n of a STAGE-ARRAY is out of range (R17). -/
def ArrayOut (g : ArrayGroup) : Nat → Prop
  | 1 => ¬ (3 ≤ g.members ∧ g.members ≤ 16)
  | 2 => ¬ (g.stripKiB = 16 ∨ g.stripKiB = 32 ∨ g.stripKiB = 64 ∨ g.stripKiB = 128)
  | 3 => ¬ (1 ≤ g.stripes ∧ g.stripes ≤ 268435456)
  | 4 => ¬ (256 ≤ g.extentSize ∧ g.extentSize ≤ 65536)
  | 5 => 15 < g.failedSlot
  | 6 => g.slotMap.length ≠ g.members ∨ ∃ c ∈ g.slotMap, 15 < c
  | 7 => 15 < g.spare
  | 8 => 4294967295 < g.epoch
  | _ => False

/-- Entry n − 9 of the classes: not a coded value, or ROUTINE for READY (R18). -/
def ClassOut (f : PolicyFields) (n : Nat) : Prop :=
  ∃ i : Fin 13, n = 9 + i.val ∧ (f.classes[i] = none ∨ i = 0 ∧ f.classes[i] = some .routine)

/-- Entry n − 22 of the silences: not a coded value, or yes for READY (R18). -/
def SilenceOut (f : PolicyFields) (n : Nat) : Prop :=
  ∃ i : Fin 13, n = 22 + i.val ∧ (f.silences[i] = none ∨ i = 0 ∧ f.silences[i] = some true)

/-- Field n of a STAGE-POLICY is out of range (section 2.3, R18). -/
def PolicyOut (f : PolicyFields) : Nat → Prop
  | 1 => 7 < f.retryLimit
  | 2 => ¬ (1 ≤ f.errorLimit ∧ f.errorLimit ≤ 255)
  | 3 => ¬ (10 ≤ f.timeoutMs ∧ f.timeoutMs ≤ 60000)
  | 4 => ¬ (1 ≤ f.latencyMs ∧ f.latencyMs ≤ 10000)
  | 5 => ¬ (1 ≤ f.lossLimit ∧ f.lossLimit ≤ 256)
  | 6 => ¬ (10 ≤ f.periodS ∧ f.periodS ≤ 3600)
  | 7 => 4 < f.ceiling
  | 8 => ¬ (1 ≤ f.quietS ∧ f.quietS ≤ 600)
  | n => ClassOut f n ∨ SilenceOut f n

/-- The fields that carry a POLICY group. -/
def PolicyGroup.fields (p : PolicyGroup) : PolicyFields :=
  { retryLimit := p.retryLimit, errorLimit := p.errorLimit, timeoutMs := p.timeoutMs, latencyMs := p.latencyMs
    lossLimit := p.lossLimit, periodS := p.periodS, ceiling := p.ceiling, quietS := p.quietS
    classes := p.classes.map some, silences := p.silences.map some }

/-- Field n of a STAGE-WINDOW is out of range, the index first (R19). -/
def WindowOut (f : WindowFields) : Nat → Prop
  | 1 => 7 < f.index
  | 2 => f.enable = none
  | 3 => 4095 < f.base
  | 4 => 4095 < f.mask
  | 5 => f.cls = none ∨ f.cls = some .normal
  | _ => False

/-- The fields that carry a window for an index. -/
def Window.fields (w : Window) (i : Fin 8) : WindowFields :=
  { index := i.val, enable := some w.enable, base := w.base.toNat, mask := w.mask.toNat, cls := some w.cls }

/-- Field n of a SET-MONITOR is out of range (R171). -/
def MonitorOut (f : MonitorFields) : Nat → Prop
  | 1 => 3 < f.number
  | 2 => f.event = none
  | 3 => 65535 < f.mask
  | 4 => f.filter = none
  | 5 => f.action = none
  | 6 => f.enable = none
  | 7 => 4294967295 < f.count
  | _ => False

/-- The fields that carry a monitor for a number. -/
def Monitor.fields (m : Monitor) (i : Fin 4) : MonitorFields :=
  { number := i.val, event := some m.event, mask := m.mask.toNat, filter := some m.filter, action := some m.action
    enable := some m.enable, count := m.count.toNat }

/-- A slot that is not the failed slot. -/
def Surviving (g : ArrayGroup) (j : Nat) : Prop := j < g.members ∧ j ≠ g.failedSlot

/-- The staged ARRAY group fails commit check n of R22. -/
def CommitFails (p : PlanStore) : Nat → Prop
  | 1 => p.stagedValid = false ∨ ¬ (3 ≤ p.stagedArray.members ∧ p.stagedArray.members ≤ 16)
  | 2 => p.stagedArray.stripKiB ∉ [16, 32, 64, 128]
  | 3 => ¬ (1 ≤ p.stagedArray.stripes ∧ p.stagedArray.stripes ≤ 268435456)
  | 4 => ¬ ∃ i < 9, p.stagedArray.extentSize = 256 * 2 ^ i
  | 5 => 4096 * p.stagedArray.extentSize < p.stagedArray.stripes
  | 6 => p.stagedArray.members ≤ p.stagedArray.failedSlot
  | 7 => ¬ ((∀ j, Surviving p.stagedArray j → ∃ c < 16, p.stagedArray.slotMap[j]? = some c)
      ∧ ∀ i j, Surviving p.stagedArray i → Surviving p.stagedArray j → i ≠ j →
          p.stagedArray.slotMap[i]? ≠ p.stagedArray.slotMap[j]?)
  | 8 => ∃ j, Surviving p.stagedArray j ∧ p.stagedArray.slotMap[j]? = some p.stagedArray.spare
  | _ => False

/-- The place of a class in the claim order: FIRST before NORMAL, NORMAL before LAST (R61). -/
def classOrder : ExtClass → Nat
  | .first => 0
  | .normal => 1
  | .last => 2
  | .hold => 3

/-- The effective level after T is recomputed, with a number of lanes working (R91). -/
def effectiveAfter (target effective working : Nat) : Nat :=
  if effective < target ∨ working ≤ target then target else effective

/-- The parked lanes, the lowest first. -/
def parkedLanes (ls : Vector LaneRec 4) : List Lane := (List.finRange 4).filter fun l : Lane => ls[l].state = .parked

/-- The parked lanes that are woken, the lowest first, until as many lanes work as a level allows (R92). -/
def wokenAt (level : Nat) (s : State) : List Lane := (parkedLanes s.lanes).take (level - workingLanes s.lanes)

/-- Lanes are woken up to a level: each enters CLAIMING and its claim is on its way, and every other lane stands (R87, R92). -/
def Wakes (level : Nat) (s t : State) : Prop :=
  t.mail.claims = s.mail.claims ++ wokenAt level s
    ∧ ∀ l : Lane, t.lanes[l] = if l ∈ wokenAt level s then { LaneRec.parked with state := .claiming } else s.lanes[l]

/-- No lane is woken. -/
def WakesNone (s t : State) : Prop := t.lanes = s.lanes ∧ t.mail.claims = s.mail.claims

/-- T has been recomputed with a candidate in RUNNING, and the effective level rises to it, a pending lowering ends at the level it has,
or as few lanes work as the lower T allows (R91, R92; the last is log entry 26). -/
def LevelWakes (s t : State) : Prop :=
  (∃ closing, s.session.state = .running closing) ∧ (∃ r ∈ s.table.extents, r.isCandidate = true)
    ∧ (s.governor.effective < t.governor.target
      ∨ s.governor.effective = t.governor.target ∧ s.governor.target < s.governor.effective
      ∨ t.governor.target < s.governor.effective ∧ workingLanes s.lanes ≤ t.governor.target)

/-- The lanes follow T as it has been recomputed: woken up to it, or none woken (R91, R92). -/
def LanesFollow (s t : State) : Prop :=
  (LevelWakes s t → Wakes t.governor.target s t) ∧ (¬ LevelWakes s t → WakesNone s t)

/-- Lanes are woken as one is admitted in RUNNING: with a candidate and no lowering pending, up to the effective level (R92). -/
def WakesAsAdmitted (s t : State) : Prop :=
  ((∃ r ∈ t.table.extents, r.isCandidate = true) → t.governor.effective ≤ t.governor.target → Wakes t.governor.effective s t)
    ∧ ((∀ r ∈ t.table.extents, r.isCandidate = false) ∨ t.governor.target < t.governor.effective → WakesNone s t)

/-! ## The hold-waiting flag (R71) -/

/-- Some extent is not DONE, and every such extent is PENDING or PARTIAL of class HOLD (R71). -/
def HeldWorkAlone (t : ExtentTable) : Prop :=
  (∃ r ∈ t.extents, r.state ≠ .done)
    ∧ ∀ r ∈ t.extents, r.state = .done ∨ (r.state = .pending ∨ ∃ c, r.state = .partDone c) ∧ r.cls = .hold

/-- The session states in which HOLD-WAITING is raised (R71). -/
def HoldIsTold (st : SessionState) : Prop :=
  st ∈ [.starting, .paused, .lossStop] ∨ (∃ closing, st = .running closing) ∨ ∃ cause, st = .pausing cause

/-- The hold-waiting flag has been evaluated: it is set exactly while held work alone is left, and where it was clear and is set, the
notice HOLD-WAITING gives the number of held extents (R71). -/
def HoldFlagEvaluated (was : Bool) (t : State) : Prop :=
  (t.table.holdWaiting = true ↔ HeldWorkAlone t.table)
    ∧ (was = false → HeldWorkAlone t.table → HoldIsTold t.session.state → silenced t.plan.policy .holdWaiting = false →
        Shown .holdWaiting 255 (.held (t.table.extents.countP fun r => r.state ≠ .done)) t.link)

/-! ## Locks and buffers (R99 to R109) -/

/-- A mode may be held together with every one of some holders (R99). -/
def MayJoin (m : LockMode) (holders : List LockPair) : Prop :=
  ∀ h ∈ holders, m = .shared ∧ h.mode ≠ .exclusive ∨ m = .rebuild ∧ h.mode = .shared

/-- Service of a lock FIFO from its head: some waiters are granted, each of which may join the holders and those granted before it, and the
first that goes on waiting may not (R101). -/
def FifoServed (holders waiters granted rest : List LockPair) : Prop :=
  waiters = granted ++ rest
    ∧ (∀ before w after, granted = before ++ w :: after → MayJoin w.mode (holders ++ before))
    ∧ ∀ w after, rest = w :: after → ¬ MayJoin w.mode (holders ++ granted)

/-- The buffers that some requests ask for. -/
def buffersAsked (rs : List BufferRequest) : Nat := (rs.map (·.count)).sum

/-- Service of one class of the buffer wait queue from its head: some requests are reserved and fit the free buffers together, and the first
that goes on waiting does not fit what they leave (R107). -/
def ClassServed (free : Nat) (waiting granted rest : List BufferRequest) : Prop :=
  waiting = granted ++ rest ∧ buffersAsked granted ≤ free
    ∧ ∀ r after, rest = r :: after → free < buffersAsked granted + r.count

/-! ## What the extent table answers (R14, R59) -/

/-- An extent index matches a window: the window is enabled, and index and base agree in the bits that the mask holds (R59). -/
def Matches (w : Window) (x : Nat) : Prop :=
  w.enable = true ∧ ∀ b < 12, w.mask.getLsbD b = true → x.testBit b = w.base.getLsbD b

/-- A stripe is rebuilt by its extent's record or by the ahead set (R14). -/
def Rebuilt (g : ArrayGroup) (t : ExtentTable) (stripe : Nat) : Prop :=
  stripe ∈ t.ahead ∨ ∃ r, t.extents[stripe / g.extentSize]? = some r
    ∧ (r.state = .done ∨ ∃ c, (r.state = .partDone c ∨ ∃ l, r.state = .active c l) ∧ stripe % g.extentSize < c)

/-- The states in which the spare is in use (R12). -/
def SpareUsed (st : SessionState) : Prop :=
  (∃ closing, st = .running closing) ∨ (∃ cause, st = .pausing cause) ∨ st = .paused ∨ st = .lossStop

/-! ## Phases of foreground operations (R6, R12, R13, R117 to R126) -/

/-- A channel serves a slot, under a rebuilt answer: the mapped channel a surviving slot, the spare channel the failed slot of a rebuilt
stripe (R12). -/
def Serves (g : ArrayGroup) (rebuilt : Bool) (j : Nat) (c : Chan) : Prop :=
  j ≠ g.failedSlot ∧ c = mappedChan g j ∨ j = g.failedSlot ∧ rebuilt = true ∧ c = spareChan g

/-- A slot is missing: no channel that is ONLINE serves it (R13). -/
def Missing (g : ArrayGroup) (rebuilt : Bool) (s : State) (j : Nat) : Prop := ∀ c, Serves g rebuilt j c → s.chans[c].failed = true

/-- A position lies in a loss record's range. -/
def Covered (range : Option (Nat × Nat)) (k : Nat) : Prop :=
  ∃ first count, range = some (first, count) ∧ first ≤ k ∧ k < first + count

/-- The positions asked of each slot are read with one command for each slot that is present and asked for some, over the span from the
lowest to the highest (R119, R121, R125). -/
def ReadsSpans (g : ArrayGroup) (rebuilt : Bool) (s : State) (positions : Nat → List Nat) (cmds : List PhaseCmd) : Prop :=
  (cmds.map (·.slot)).Pairwise (· < ·)
    ∧ (∀ q ∈ cmds, q.slot < g.members ∧ Serves g rebuilt q.slot q.chan ∧ s.chans[q.chan].failed = false ∧ q.spare = false
        ∧ q.attempts = 1 ∧ q.outcome = .outstanding ∧ q.first ∈ positions q.slot
        ∧ (∃ k ∈ positions q.slot, k + 1 = q.first + q.count) ∧ ∀ k ∈ positions q.slot, q.first ≤ k ∧ k < q.first + q.count)
    ∧ ∀ j, j < g.members → ¬ Missing g rebuilt s j → positions j ≠ [] → ∃ q ∈ cmds, q.slot = j

/-- The strips to be written are written whole: one command for each slot that is present and to be written, and then, if the spare is in
use and ONLINE and the stripe is not rebuilt, one for the failed slot's strip to the spare (R124, R126). A write to a channel in role TARGET
is a spare write (R127). -/
def WritesStrips (g : ArrayGroup) (rebuilt : Bool) (s : State) (changed : Nat → Prop) (cmds : List PhaseCmd) : Prop :=
  ∃ members spare, cmds = members ++ spare
    ∧ (members.map (·.slot)).Pairwise (· < ·)
    ∧ (∀ q ∈ members, q.slot < g.members ∧ changed q.slot ∧ Serves g rebuilt q.slot q.chan ∧ s.chans[q.chan].failed = false)
    ∧ (∀ j, j < g.members → changed j → ¬ Missing g rebuilt s j → ∃ q ∈ members, q.slot = j)
    ∧ (SpareUsed s.session.state ∧ rebuilt = false ∧ s.chans[spareChan g].failed = false →
        spare.map (fun q => (q.slot, q.chan)) = [(g.failedSlot, spareChan g)])
    ∧ (¬ SpareUsed s.session.state ∨ rebuilt = true ∨ s.chans[spareChan g].failed = true → spare = [])
    ∧ ∀ q ∈ cmds, (q.spare = true ↔ s.chans[q.chan].role = .target) ∧ q.first = 0 ∧ q.count = stripBlocks g ∧ q.attempts = 1
        ∧ q.outcome = .outstanding

/-- The commands of a phase are handed over in the foreground class, each to its channel, the blocks of a write from the buffers (R3,
R117). -/
def HandedOver (g : ArrayGroup) (e : FgEntry) (write : Bool) (s t : State) : Prop :=
  ∀ c : Chan, t.chans[c] = { s.chans[c] with
    fgPending := s.chans[c].fgPending ++ (e.plan.cmds.filter fun q => q.chan = c).map fun q =>
      { issuer := .fg e.tag, write, block := e.stripe * stripBlocks g + q.first, count := q.count
        blocks := if write then (List.range q.count).map fun k => (blockAt e.bufs q.slot k).getD 0 else [] } }

/-- What a read's ending that is not handed over again leaves of its operation's entry: the outcome, and the blocks obtained, those of an
earlier phase among them (R118, log entry 40). -/
def ReadEnds (s : State) (q : PhaseCmd) (e : FgEntry) (x : EndStatus) (f : FgEntry) : Prop :=
  (∃ bs, x = .good bs ∧ f = storeBlocks q (bs.map some) { e with plan := setCmd { q with outcome := .good } e.plan })
    ∨ (s.plan.policy.retryLimit < q.attempts ∨ s.chans[q.chan].failed = true)
      ∧ ((∃ first count bs, x = .medium first count bs
            ∧ f = storeBlocks q (spread q.count first count bs)
                { e with plan := setCmd { q with outcome := .partialBad first count } e.plan })
          ∨ (x = .rejected ∨ x = .timeout) ∧ f = { e with plan := setCmd { q with outcome := .failed } e.plan })
    ∨ x = .memberFailed ∧ f = { e with plan := setCmd { q with outcome := .failed } e.plan }

/-- The block an operation has obtained of a slot at a position when a phase of reads ends: a copy on the spare that a loss record covers
counts as not obtained (R6, R15, log entry 35). -/
def obtained (g : ArrayGroup) (losses : List LossRec) (f : FgEntry) (j k : Nat) : Option Block :=
  if j = g.failedSlot ∧ (lossRange losses f.stripe).any (inRange k) = true ∧ (j, k) ∉ f.computed then none else blockAt f.bufs j k

/-- A block is the XOR of the blocks of the other slots at its position, all of them obtained (R6). -/
def IsXor (g : ArrayGroup) (held : Nat → Nat → Option Block) (j k : Nat) (b : Block) : Prop :=
  ∃ f : Nat → Block, (∀ i, i < g.members → i ≠ j → held i k = some (f i))
    ∧ b = xorAll (((List.range g.members).filter (· ≠ j)).map f)

/-- The reconstruction of a block fails: a block of another slot at its position was not obtained (R6). -/
def NoXor (g : ArrayGroup) (held : Nat → Nat → Option Block) (j k : Nat) : Prop := ∃ i, i < g.members ∧ i ≠ j ∧ held i k = none

/-- The buffers of an operation: one for each slot, one place for each block of a strip (R104, R114). -/
def BufsFit (g : ArrayGroup) (e : FgEntry) : Prop := e.bufs.length = g.members ∧ ∀ b ∈ e.bufs, b.length = stripBlocks g

/-- An entry's run lies in its stripe (R115). -/
def RunFits (g : ArrayGroup) (e : FgEntry) : Prop :=
  1 ≤ e.count ∧ e.lba / stripeData g = e.stripe ∧ (e.lba + e.count - 1) / stripeData g = e.stripe

/-- The monitors stand as they do after an event without a channel is raised, or as they did where it is not (R167). -/
def EventIf (raised : Prop) (k : EventKind) (s t : State) : Prop :=
  (raised → t.monitors = (raiseEvent k none s).monitors) ∧ (¬ raised → t.monitors = s.monitors)

/-- The events of an operation's end: FG-RECONSTRUCT if a block was computed for it, then FG-LATE if the time since its arrival exceeds
the latency budget (R130, R131). -/
def EndEvents (e : FgEntry) (computed : Prop) (s t : State) : Prop :=
  ∃ u : State, u.session = s.session ∧ EventIf computed .fgReconstruct s u
    ∧ EventIf (s.plan.policy.latencyMs < s.now - e.arrival) .fgLate u t

/-- A foreground operation ends: its entry goes, its lock and its buffers are released, its request is answered, and the events of its end
are raised; `computed` says whether a block was computed for it (R130, R131). -/
def OperationEnds (e : FgEntry) (computed : Prop) (a : Answer) (r : Result) (s t : State) : Prop :=
  EndEvents e computed s t
    ∧ t.queue = s.queue.filter (fun f => f.tag ≠ e.tag)
    ∧ owed t.link = owed s.link ++ [{ tag := e.tag, type := if e.write then 0x11 else 0x10, answer := a, result := r }]
    ∧ t.locks = (releaseLock (.fg e.tag) e.stripe s).locks ∧ t.pool = (releaseBuffers (.fg e.tag) s).pool ∧ t.chans = s.chans

/-! ## Commands handed over, and channels declared FAILED on a report (R136, R142, R144) -/

/-- A command is handed over in the rebuild class: it joins the tail of an ONLINE channel's class, and on a FAILED channel it ends at once
with MEMBER-FAILED (R136). -/
def RebuildHanded (c : Chan) (cmd : StripCmd) (s t : State) : Prop :=
  (s.chans[c].failed = false →
      t.chans = s.chans.set c { s.chans[c] with rebuildPending := s.chans[c].rebuildPending ++ [cmd] } ∧ t.mail.endings = s.mail.endings)
    ∧ (s.chans[c].failed = true →
      t.chans = s.chans ∧ t.mail.endings = s.mail.endings ++ [{ chan := c, cmd, status := .memberFailed }])

/-- An ONLINE channel has been declared FAILED with cause REPORT: nothing stays issued or pending, every command but an orphan ends with
MEMBER-FAILED in order, and the session controller is told with the role. Where no orphan is among them, no buffers move (R142, R144). -/
def DeclaredOnReport (c : Chan) (s t : State) : Prop :=
  t.chans = s.chans.set c { s.chans[c] with failed := true, issued := [], fgPending := [], rebuildPending := [] }
    ∧ t.mail.endings = s.mail.endings ++
        ((s.chans[c].issued.map (·.cmd) ++ s.chans[c].fgPending ++ s.chans[c].rebuildPending).filter
          (fun m => match m.issuer with | .orphan _ => false | _ => true)).map (fun m => { chan := c, cmd := m, status := .memberFailed })
    ∧ t.mail.told = s.mail.told ++ [{ chan := c, role := s.chans[c].role }]
    ∧ (silenced s.plan.policy .memberFailed = false → Shown .memberFailed c.val (.failCause .report) t.link)
    ∧ ((∀ m ∈ s.chans[c].issued.map (·.cmd) ++ s.chans[c].fgPending ++ s.chans[c].rebuildPending, ∀ l : Lane, m.issuer ≠ .orphan l) →
        t.pool = s.pool ∧ t.mail.reservations = s.mail.reservations)

/-! ## The completion check (R45) -/

/-- The completion check has succeeded: the closing mark is set and the writer is asked for the COMPLETE record. An idle writer begins it,
handing the spare channel the table and the losses as they stand, and with the next sequence EXHAUSTED reports the spare instead; behind a
write in flight it waits (R45, R156, R161). That none is begun while the spare is FAILED is the model's choice (log entry 37). -/
def CompletionAsked (g : ArrayGroup) (s t : State) : Prop :=
  t.session = { s.session with state := .running true }
    ∧ (∀ n, s.writer.state = .idle → s.writer.next = .seq n → s.chans[spareChan g].failed = false →
        t.writer = { s.writer with
          state := .writing { mark := .complete, sequence := n, slot := s.writer.slot }, period := t.writer.period }
        ∧ t.mail.endings = s.mail.endings ∧ t.mail.told = s.mail.told
        ∧ ∃ cmd, t.chans = s.chans.set (spareChan g) { s.chans[spareChan g] with
            rebuildPending := s.chans[spareChan g].rebuildPending ++ [cmd] }
          ∧ cmd.issuer = .checkpoint ∧ cmd.write = true ∧ cmd.block = areaStart g s.writer.slot ∧ cmd.count = cmd.blocks.length
          ∧ cmd.blocks = blocksOfBytes (recordBytes g n .complete s.plan.policy.lossLimit t.table.extents t.losses))
    ∧ (s.writer.state = .idle → s.writer.next = .exhausted → s.chans[spareChan g].failed = false →
        t.writer = { s.writer with period := t.writer.period } ∧ DeclaredOnReport (spareChan g) s t)
    ∧ (s.writer.state = .idle → s.chans[spareChan g].failed = true →
        t.writer = { s.writer with period := t.writer.period } ∧ t.chans = s.chans)
    ∧ ∀ w, s.writer.state = .writing w →
        t.writer = { s.writer with waiting := some .complete, period := t.writer.period } ∧ t.chans = s.chans

/-! ## Lanes at a boundary (R77, R78, R86, R91) -/

/-- A lane begins a stripe of its extent: it asks for a REBUILD lock, and with the lock for N−1 buffers. On a stripe without a lock entry,
or beside SHARED holders and no waiter, the lock is granted at once; behind another holder or a waiter the lane waits (R78, R100, R106).
Which free buffers it is given is the model's choice (log entry 5). -/
def BeginsStripe (g : ArrayGroup) (l : Lane) (x stripe : Nat) (s t : State) : Prop :=
  t.lanes[l].extent = some x ∧ t.lanes[l].stripe = some stripe
    ∧ (∀ holders, (lockEntry? s.locks stripe = none ∧ holders = []
          ∨ lockEntry? s.locks stripe = some { stripe, holders, waiters := [] } ∧ ∀ h ∈ holders, h.mode = .shared) →
        t.lanes[l].state = .bufferWait
        ∧ lockEntry? t.locks stripe = some { stripe, holders := holders ++ [{ op := .lane l, mode := .rebuild }], waiters := [] }
        ∧ (s.pool.fgWait = [] ∧ s.pool.laneWait = [] ∧ g.members - 1 ≤ s.pool.free.length →
            t.pool = { s.pool with
              free := s.pool.free.drop (g.members - 1)
              held := s.pool.held ++ [{ op := .lane l, ids := s.pool.free.take (g.members - 1) }] }
            ∧ t.mail.reservations = s.mail.reservations ++ [.lane l])
        ∧ (s.pool.fgWait ≠ [] ∨ s.pool.laneWait ≠ [] ∨ s.pool.free.length < g.members - 1 →
            t.pool = { s.pool with laneWait := s.pool.laneWait ++ [{ op := .lane l, count := g.members - 1 }] }
            ∧ t.mail.reservations = s.mail.reservations))
    ∧ (∀ entry, lockEntry? s.locks stripe = some entry → entry.waiters ≠ [] ∨ (∃ h ∈ entry.holders, h.mode ≠ .shared) →
        t.lanes[l].state = .lockWait ∧ t.pool = s.pool ∧ t.mail.reservations = s.mail.reservations
        ∧ lockEntry? t.locks stripe = some { entry with waiters := entry.waiters ++ [{ op := .lane l, mode := .rebuild }] })
    ∧ ∀ other, other ≠ stripe → lockEntry? t.locks other = lockEntry? s.locks other

/-- A lane parks and no lane wakes. A lowering that is pending ends, if no more lanes work then than the target level allows (R77, R91). -/
def Parks (l : Lane) (s t : State) : Prop :=
  t.lanes = s.lanes.set l LaneRec.parked ∧ t.mail.claims = s.mail.claims
    ∧ (s.governor.target < s.governor.effective → workingLanes t.lanes ≤ s.governor.target →
        t.governor = { s.governor with effective := s.governor.target }
        ∧ (silenced s.plan.policy .rateChanged = false → Shown .rateChanged 255 (.level s.governor.target) t.link))
    ∧ (s.governor.effective ≤ s.governor.target ∨ s.governor.target < workingLanes t.lanes → t.governor = s.governor)

/-- What a lane's park in PAUSING leads to, `triggers` of the writer's on their way. While another lane works, nothing. The last park asks
for the marked record: it begins if the writer is idle, and waits behind a RUNNING-marked write in flight (R43, R77, R161). That a RUNNING
record of the triggers on their way precedes it is the model's choice (log entry 38). -/
def ParksInPausing (g : ArrayGroup) (l : Lane) (cause : PauseCause) (triggers : Nat) (s t : State) : Prop :=
  ((∃ k : Lane, k ≠ l ∧ s.lanes[k].state ≠ .parked) → t.writer = s.writer ∧ t.chans = s.chans ∧ t.mail.triggers = triggers)
    ∧ ((∀ k : Lane, k ≠ l → s.lanes[k].state = .parked) → s.writer.waiting = none →
      (∀ n, s.writer.state = .idle → s.writer.next = .seq n → s.chans[spareChan g].failed = false →
        t.writer = { s.writer with
          state := .writing { mark := if triggers = 0 then pauseMark cause else .running, sequence := n, slot := s.writer.slot }
          again := s.writer.again || decide (1 < triggers)
          waiting := if triggers = 0 then none else some (pauseMark cause) }
        ∧ t.mail.triggers = 0)
      ∧ ∀ w, s.writer.state = .writing w → w.mark = .running →
        t.writer = { s.writer with again := s.writer.again || decide (0 < triggers), waiting := some (pauseMark cause) }
        ∧ t.chans = s.chans ∧ t.mail.triggers = 0)

/-! ## The fill range (R83) -/

/-- A range runs from the lowest first block to the highest last block of a lane's lost ranges and the stripe's record; without either there
is none (R83). -/
def FillsOver (lost : List LostRange) (record fill : Option (Nat × Nat)) : Prop :=
  (lost = [] ∧ record = none → fill = none)
    ∧ (¬ (lost = [] ∧ record = none) → ∃ first past, fill = some (first, past - first)
      ∧ (∃ p ∈ lost.map (fun x => (x.first, x.count)) ++ record.toList, p.1 = first)
      ∧ (∃ p ∈ lost.map (fun x => (x.first, x.count)) ++ record.toList, p.1 + p.2 = past)
      ∧ ∀ p ∈ lost.map (fun x => (x.first, x.count)) ++ record.toList, first ≤ p.1 ∧ p.1 + p.2 ≤ past)

/-! ## The end of a checkpoint write (R157) -/

/-- The report of a completed write moves the session in no way: the session is not in the state that a write of this mark ends, nor in
STARTING, whose two writes R162 gives (R157). -/
def MovesNoSession (w : CkptWrite) (st : SessionState) : Prop :=
  st ≠ .starting ∧ (w.mark = .paused ∨ w.mark = .lossStop → ∀ cause, st ≠ .pausing cause)
    ∧ (w.mark = .complete → ∀ closing, st ≠ .running closing) ∧ (w.mark = .abandoned → st ≠ .draining)

/-! ## Lanes parked at once (R88, R89, R102, R109, R145) -/

/-- A lane waits as its state says: in a lock FIFO in LOCK-WAIT alone, in the lane class of the buffer wait queue in BUFFER-WAIT alone. No
stripe has two lock entries. -/
def LanesWaitAsTheySay (s : State) : Prop :=
  (s.locks.map (·.stripe)).Nodup
    ∧ (∀ e ∈ s.locks, ∀ w ∈ e.waiters, ∀ l : Lane, w.op = .lane l → s.lanes[l].state = .lockWait)
    ∧ (∀ r ∈ s.pool.laneWait, ∀ l : Lane, r.op = .lane l → s.lanes[l].state = .bufferWait)
    ∧ ∀ r ∈ s.pool.fgWait, ∀ l : Lane, r.op ≠ .lane l

/-- A lane holds an extent in its record, or in the first answer to its claim that gives one (R87). -/
def HeldExtent (s : State) (l : Lane) (x : Nat) : Prop :=
  s.lanes[l].state ∉ [.parked, .claiming] ∧ s.lanes[l].extent = some x
    ∨ s.lanes[l].state = .claiming
      ∧ ∃ c n, (s.mail.answers.find? fun a => a.lane = l && a.given.isSome) = some { lane := l, given := some (x, c, n) }

/-- What the lanes of one state have let go of in another, in which they have been parked at once: the extents are PARTIAL; the lock on the
stripe is neither held nor awaited; no buffers are awaited; of a READING or WRITING lane nothing is pending, what is issued is an orphan, no
ending is on its way, and the buffers are kept exactly while an orphan needs them. A release evaluates the hold-waiting flag (R71). -/
def LetGo (s t : State) : Prop :=
  (∀ (l : Lane) x r cursor holder, HeldExtent s l x → s.table.extents[x]? = some r → r.state = .active cursor holder →
      t.table.extents[x]? = some { r with state := .partDone cursor })
    ∧ ((∃ (l : Lane) (x : Nat) (r : ExtentRec), HeldExtent s l x ∧ s.table.extents[x]? = some r
          ∧ ∃ cursor holder, r.state = .active cursor holder) →
        (t.table.holdWaiting = true ↔ HeldWorkAlone t.table))
    ∧ ((∀ (l : Lane) (x : Nat) (r : ExtentRec), HeldExtent s l x → s.table.extents[x]? = some r → ∀ cursor holder,
        r.state ≠ .active cursor holder) → t.table.holdWaiting = s.table.holdWaiting)
    ∧ (∀ (l : Lane) stripe, s.lanes[l].state ∉ [.parked, .claiming] → s.lanes[l].stripe = some stripe →
        ∀ e ∈ t.locks, e.stripe = stripe → ∀ p ∈ e.holders ++ e.waiters, p.op ≠ .lane l)
    ∧ (∀ l : Lane, s.lanes[l].state = .bufferWait →
        (∀ r ∈ t.pool.laneWait, r.op ≠ .lane l) ∧ ∀ h ∈ t.pool.held, h.op ≠ .lane l)
    ∧ ∀ l : Lane, s.lanes[l].state = .reading ∨ s.lanes[l].state = .writing →
        (∀ e ∈ t.mail.endings, e.cmd.issuer ≠ .lane l)
        ∧ (∀ c : Chan, (∀ m ∈ t.chans[c].fgPending ++ t.chans[c].rebuildPending, m.issuer ≠ .lane l)
            ∧ (∀ i ∈ t.chans[c].issued, i.cmd.issuer ≠ .lane l)
            ∧ ∀ i ∈ s.chans[c].issued, i.cmd.issuer = .lane l →
                { i with cmd := { i.cmd with issuer := .orphan l } } ∈ t.chans[c].issued)
        ∧ ((∃ c : Chan, ∃ i ∈ s.chans[c].issued, i.cmd.issuer = .lane l) →
            t.pool.held.filter (fun h => h.op = .lane l) = s.pool.held.filter (fun h => h.op = .lane l))
        ∧ ((∀ c : Chan, ∀ i ∈ s.chans[c].issued, i.cmd.issuer ≠ .lane l ∧ i.cmd.issuer ≠ .orphan l) →
            ∀ h ∈ t.pool.held, h.op ≠ .lane l)

/-! ## The bytes of the control link (R173 to R175) -/

/-- No start code begins in some bytes and ends in them. -/
def NoStart (bs : List Byte) : Prop := ∀ i, bs[i]? = some 0xD2#8 → bs[i + 1]? ≠ some 0x4B#8

/-- The last byte of bytes without a start code, if it may still become the first of one (R175). -/
def startOf (bs : List Byte) : List Byte := if bs.getLast? = some 0xD2#8 then [0xD2#8] else []

/-! ## Checkpoint records (R153, R154) -/

/-- The check of a record is right: its counts keep it within six blocks, and its last four bytes spell the CRC-32 of all before them
(R153, R154). A record with E zero gives no X and has no right check (log entry 8). -/
def CheckRight (bs : List Block) : Prop :=
  numAt bs 12 4 ≠ 0 ∧ ∃ n, n = 48 + 4 * ((numAt bs 8 4 + numAt bs 12 4 - 1) / numAt bs 12 4) + 16 * numAt bs 42 2 ∧ n + 4 ≤ 24576
    ∧ numAt bs n 4 = (crc32 ((List.range n).map (byteAt bs))).toNat

/-- A record's fingerprint is that of an ARRAY group (R153). -/
def SameFingerprint (g : ArrayGroup) (bs : List Block) : Prop :=
  numAt bs 5 1 = g.members ∧ numAt bs 6 1 = g.stripKiB ∧ numAt bs 7 1 = g.failedSlot ∧ numAt bs 8 4 = g.stripes
    ∧ numAt bs 12 4 = g.extentSize
    ∧ (∀ j < 16, numAt bs (16 + j) 1 = if j = g.failedSlot ∨ g.members ≤ j then 255 else g.slotMap.getD j 255)
    ∧ numAt bs 32 1 = g.spare

/-- Every field of a record lies in its range (R153, R154). Which fields besides those of R154's list are looked at is the model's choice
(log entry 8). -/
def RecordWellFormed (bs : List Block) : Prop :=
  numAt bs 0 4 ≠ 0 ∧ (1 ≤ numAt bs 4 1 ∧ numAt bs 4 1 ≤ 6) ∧ commitCheck (recordGroup bs) = none ∧ numAt bs 32 1 < 16
    ∧ (∀ x < recordExtents bs, ∃ kind cursor, kind = numAt bs (48 + 4 * x) 1 ∧ cursor = numAt bs (49 + 4 * x) 3
        ∧ (kind = 1 ∨ kind = 2 ∨ kind = 3 ∧ cursor < extentLength (recordGroup bs) x))
    ∧ (1 ≤ numAt bs 40 2 ∧ numAt bs 40 2 ≤ 256) ∧ numAt bs 42 2 ≤ 256
    ∧ ∀ i < numAt bs 42 2, ∃ place, place = 48 + 4 * recordExtents bs + 16 * i
        ∧ numAt bs place 4 < numAt bs 8 4 ∧ 1 ≤ numAt bs (place + 5) 1
        ∧ numAt bs (place + 4) 1 + numAt bs (place + 5) 1 ≤ numAt bs 6 1 / 4 ∧ numAt bs (place + 6) 1 < 16
        ∧ (numAt bs (place + 7) 1 = 1 ∨ numAt bs (place + 7) 1 = 2)
        ∧ (i + 1 < numAt bs 42 2 → numAt bs place 4 < numAt bs (place + 16) 4)

/-- What a checkpoint captures lies in the ranges a record has room for: one record for each extent with its cursor below the extent's
length, and at most 256 loss records in ascending stripe order, each within its strip (R74, R148, R153). -/
def CaptureFits (g : ArrayGroup) (es : List ExtentRec) (ls : List LossRec) : Prop :=
  es.length = extentCount g
    ∧ (∀ (x : Nat) r c, es[x]? = some r → (r.state = .partDone c ∨ ∃ l, r.state = .active c l) → c < extentLength g x)
    ∧ ls.length ≤ 256 ∧ (ls.map (·.stripe)).Pairwise (· < ·)
    ∧ ∀ r ∈ ls, r.stripe < g.stripes ∧ 1 ≤ r.count ∧ r.first + r.count ≤ stripBlocks g

/-- The state an extent is captured in: an ACTIVE one is PARTIAL with its cursor as it stands (R74). -/
def CapturedAs (st : ExtentState) : ExtentState → Prop
  | .active c _ => st = .partDone c
  | other => st = other

/-- Blocks hold a record, field by field where R153 lays it out: the fixed fields, an entry for each extent as it is captured, the loss
records, all but the check (R74, R153). -/
def HoldsRecord (g : ArrayGroup) (n : Nat) (m : Mark) (limit : Nat) (es : List ExtentRec) (ls : List LossRec) (bs : List Block) : Prop :=
  numAt bs 0 4 = n
    ∧ (m, numAt bs 4 1) ∈ [(Mark.running, 1), (.paused, 2), (.lossStop, 3), (.complete, 4), (.halted, 5), (.abandoned, 6)]
    ∧ SameFingerprint g bs ∧ numAt bs 33 3 = 0 ∧ numAt bs 36 4 = g.epoch ∧ numAt bs 40 2 = limit ∧ numAt bs 42 2 = ls.length
    ∧ numAt bs 44 4 = 0
    ∧ (∀ (x : Nat) r, es[x]? = some r → ∃ st, CapturedAs st r.state
        ∧ (st = .done ∧ numAt bs (48 + 4 * x) 1 = 1 ∧ numAt bs (49 + 4 * x) 3 = 0
          ∨ st = .pending ∧ numAt bs (48 + 4 * x) 1 = 2 ∧ numAt bs (49 + 4 * x) 3 = 0
          ∨ ∃ c, st = .partDone c ∧ numAt bs (48 + 4 * x) 1 = 3 ∧ numAt bs (49 + 4 * x) 3 = c))
    ∧ ∀ (i : Nat) r, ls[i]? = some r → ∃ place, place = 48 + 4 * es.length + 16 * i
        ∧ numAt bs place 4 = r.stripe ∧ numAt bs (place + 4) 1 = r.first ∧ numAt bs (place + 5) 1 = r.count
        ∧ numAt bs (place + 6) 1 = r.chan.val ∧ (r.cause, numAt bs (place + 7) 1) ∈ [(LossCause.medium, 1), (.timeout, 2)]
        ∧ numAt bs (place + 8) 8 = 0

/-! ## Laws of the device -/

/-- Every field of a POLICY group lies in its range, and READY is URGENT and not silenced (section 2.3, R18, R29). -/
def PolicyLaw (p : PolicyGroup) : Prop :=
  p.retryLimit ≤ 7 ∧ (1 ≤ p.errorLimit ∧ p.errorLimit ≤ 255) ∧ (10 ≤ p.timeoutMs ∧ p.timeoutMs ≤ 60000)
    ∧ (1 ≤ p.latencyMs ∧ p.latencyMs ≤ 10000) ∧ (1 ≤ p.lossLimit ∧ p.lossLimit ≤ 256) ∧ (10 ≤ p.periodS ∧ p.periodS ≤ 3600)
    ∧ p.ceiling ≤ 4 ∧ (1 ≤ p.quietS ∧ p.quietS ≤ 600)
    ∧ p.classes[kindIndex .ready] = .urgent ∧ p.silences[kindIndex .ready] = false

/-- The plan store holds only what its checks have passed: a valid staged ARRAY group is in range, an active one has passed the commit
checks as well, both POLICY groups are in range, and no window has class NORMAL (R17 to R22). -/
def PlanLaw (p : PlanStore) : Prop :=
  (p.stagedValid = true → arrayField p.stagedArray = none) ∧ (∀ g, p.array = some g → arrayField g = none ∧ commitCheck g = none)
    ∧ PolicyLaw p.stagedPolicy ∧ PolicyLaw p.policy
    ∧ (∀ w ∈ p.stagedWindows.toList, w.cls ≠ .normal) ∧ ∀ w ∈ p.windows.toList, w.cls ≠ .normal

/-- The key of a notice (R181). -/
def Notice.key (n : Notice) : NoticeKind × Nat := (n.kind, n.subject)

/-- The notice set never holds two pending notices with the same kind and subject, and each has its own place in the order of first
occurrence, below the next one to be given (R181). -/
def NoticeLaw (l : ControlLink) : Prop :=
  (l.notices.map Notice.key).Nodup ∧ (l.notices.map (·.order)).Nodup ∧ ∀ n ∈ l.notices, n.order < l.nextOrder

/-- The ahead set is in strictly ascending order and holds at most 256 stripes (R68). -/
def AheadLaw (t : ExtentTable) : Prop := t.ahead.Pairwise (· < ·) ∧ t.ahead.length ≤ 256

/-- The lost-strip list is in strictly ascending stripe order and never holds more than 256 records (R148). -/
def LossLaw (ls : List LossRec) : Prop := (ls.map (·.stripe)).Pairwise (· < ·) ∧ ls.length ≤ 256

/-- Every one of the 384 buffers is either free or held by one operation (R104). -/
def PoolLaw (p : BufferPool) : Prop := (p.free ++ p.held.flatMap (·.ids)).Perm (List.range 384)

/-- A channel never has more than four commands issued, none at all when it is FAILED, and an error count of at most 255 (R134, R137,
R140, R144). -/
def ChannelLaw (r : ChannelRec) : Prop :=
  r.issued.length ≤ 4 ∧ r.errors ≤ 255 ∧ (r.failed = true → r.issued = [] ∧ r.fgPending = [] ∧ r.rebuildPending = [])

/-- Every channel keeps the law of a channel. -/
def ChannelsLaw (v : Vector ChannelRec 16) : Prop := ∀ c : Chan, ChannelLaw v[c]

/-- The number of holders of an entry in a mode. -/
def holdersIn (m : LockMode) (e : LockEntry) : Nat := e.holders.countP fun h => h.mode = m

/-- An entry's holders are either one EXCLUSIVE holder or SHARED holders together with at most one REBUILD holder (R99). -/
def EntryLaw (e : LockEntry) : Prop :=
  (holdersIn .exclusive e = 1 ∧ e.holders.length = 1) ∨ (holdersIn .exclusive e = 0 ∧ holdersIn .rebuild e ≤ 1)

/-- The stripe lock table never holds two entries for one stripe, and the holders of each agree (R99). -/
def LockLaw (ls : List LockEntry) : Prop := (ls.map (·.stripe)).Nodup ∧ ∀ e ∈ ls, EntryLaw e

/-- The foreground queue never holds more than 32 requests or two requests with the same tag (R114). -/
def QueueLaw (q : List FgEntry) : Prop := q.length ≤ 32 ∧ (q.map (·.tag)).Nodup

/-- The governor's levels are as R90 gives them, its timer runs while G is below 4 (R94), no more lanes work than the effective level
allows (R92), and a lowering is pending only while more lanes work than the target level (R91). -/
def RateLaw (s : State) : Prop :=
  s.governor.target = targetLevel s ∧ 1 ≤ s.governor.limit ∧ s.governor.limit ≤ 4 ∧ (s.governor.quiet.isSome ↔ s.governor.limit < 4)
    ∧ s.governor.target ≤ s.governor.effective ∧ workingLanes s.lanes ≤ s.governor.effective
    ∧ (s.governor.target < s.governor.effective → s.governor.target < workingLanes s.lanes)

/-! ## Lanes and extents -/

/-- The session states in which lanes work (R55). -/
def lanesMayWork (st : SessionState) : Bool := isRunning st || isPausing st

/-- The write in flight is a marked one (R160). -/
def markedInFlight (w : Writer) : Bool :=
  match w.state with
  | .writing x => x.mark ≠ .running
  | _ => false

/-- The session states in which no marked write has been asked for: each is entered with none and asks for none (R43, R45, R161). -/
def asksNoMark : SessionState → Bool
  | .idle | .starting | .restoring | .running false | .paused | .lossStop => true
  | _ => false

/-- Every lane is PARKED outside RUNNING and PAUSING (R55). It rests on this: with the closing mark every extent is DONE and every lane
PARKED (R45), the marked write that ends PAUSING is asked for with every lane PARKED (R43), and no marked write waits behind another
(R161). -/
def LanesLaw (s : State) : Prop :=
  (lanesMayWork s.session.state = false → ∀ l : Lane, s.lanes[l].state = .parked)
    ∧ (s.session.state = .running true → allDone s.table = true ∧ ∀ l : Lane, s.lanes[l].state = .parked)
    ∧ (isPausing s.session.state = true → markedWriteAsked s.writer = true → ∀ l : Lane, s.lanes[l].state = .parked)
    ∧ (asksNoMark s.session.state = true → markedWriteAsked s.writer = false)
    ∧ (lanesMayWork s.session.state = true → markedInFlight s.writer = true → s.writer.waiting = none)

/-- A lane holds an extent: it is in the lane's record, or in the answer to the lane's claim that is on its way (R62, R87). -/
def Holds (s : State) (l : Lane) (x : Nat) : Prop :=
  s.lanes[l].extent = some x ∨ s.lanes[l].state = .claiming ∧ ∃ c n, { lane := l, given := some (x, c, n) } ∈ s.mail.answers

/-- An extent is ACTIVE under a lane (R56). -/
def ActiveUnder (s : State) (x : Nat) (l : Lane) : Prop := ∃ r c, s.table.extents[x]? = some r ∧ r.state = .active c l

/-- The session states that park the lanes at once, and leave what is on its way between a lane and the extent table to be discarded
(R87). -/
def parksAtOnce : SessionState → Bool
  | .draining | .halted _ | .targetFailed => true
  | _ => false

/-- An extent is ACTIVE under a lane exactly if the lane holds it, no lane holds more than one, and none is ACTIVE outside RUNNING and
PAUSING (R55, R62). It rests on this: a lane with an extent in its record works and does not claim, and a lane claims exactly if its claim
or one answer to it is on its way (R87). -/
def HoldLaw (s : State) : Prop :=
  (∀ x l, ActiveUnder s x l → lanesMayWork s.session.state = true)
    ∧ (lanesMayWork s.session.state = true → ∀ x l, ActiveUnder s x l ↔ Holds s l x)
    ∧ (lanesMayWork s.session.state = true → ∀ l x y, Holds s l x → Holds s l y → x = y)
    ∧ (∀ l : Lane, s.lanes[l].extent ≠ none → s.lanes[l].state ≠ .parked ∧ s.lanes[l].state ≠ .claiming)
    ∧ (parksAtOnce s.session.state = false → ∀ l : Lane,
        s.mail.claims.count l + s.mail.answers.countP (fun a => a.lane = l) = if s.lanes[l].state = .claiming then 1 else 0)

/-- Every stripe of the ahead set lies in the array, in an extent that is not DONE, at or beyond its cursor, a PENDING extent counting as
cursor 0 (R68). It rests on this: there are extent records outside IDLE and RESTORING alone, one for each extent of the active ARRAY group
(R57, R58), every request in the queue asks for a stripe of the array (R115), and the queue is empty before RUNNING and while the ABANDONED
record is written (R47, R53). -/
def PlaceLaw (s : State) : Prop :=
  (∀ g n, s.plan.array = some g → n ∈ s.table.ahead →
      n < g.stripes ∧ ∃ r c, s.table.extents[n / g.extentSize]? = some r ∧ r.cursor = some c ∧ c ≤ n % g.extentSize)
    ∧ (s.session.state = .idle ∨ s.session.state = .restoring → s.table.extents = [] ∧ s.table.ahead = [])
    ∧ (s.session.state ≠ .idle → s.session.state ≠ .restoring → ∃ g, s.plan.array = some g ∧ s.table.extents.length = extentCount g)
    ∧ (∀ g, s.plan.array = some g → ∀ e ∈ s.queue, e.stripe < g.stripes)
    ∧ (s.session.state = .idle ∨ s.session.state = .starting ∨ s.session.state = .restoring → s.queue = [])
    ∧ (∀ w, s.writer.state = .writing w → w.mark = .abandoned → s.session.state = .draining ∧ s.queue = [])
    ∧ s.writer.waiting ≠ some .abandoned

/-- The write in flight has the next sequence and goes to the next slot (R156). -/
def WriterLaw (w : Writer) : Prop := ∀ f, w.state = .writing f → w.next = .seq f.sequence ∧ w.slot = f.slot

/-- RESTORE's reads are in flight. -/
def readsInFlight (w : Writer) : Bool :=
  match w.state with
  | .reading _ => true
  | _ => false

/-- The long operation that a session state goes with: one in flight in STARTING, RESTORING, DRAINING and PAUSING with cause REQUEST,
perhaps a PAUSE in PAUSING with cause LOSS, none elsewhere (R34). -/
def longOpFits (st : SessionState) (op : Option LongKind) : Bool :=
  match st with
  | .starting => op = some .start
  | .restoring => op = some .restore
  | .draining => op = some .abort
  | .pausing .request => op = some .pause
  | .pausing .loss => op = some .pause || op = none
  | _ => op = none

/-- The long operation fits the session state, the period timer runs in RUNNING alone, and the checkpoint slots are read in RESTORING
alone (R34, R55, R155). -/
def SessionLaw (s : State) : Prop :=
  longOpFits s.session.state (s.session.longOp.map (·.kind)) = true ∧ s.writer.period.isSome = isRunning s.session.state
    ∧ (readsInFlight s.writer = true → s.session.state = .restoring)

end Sys2Proof.Machine
end

