-- ==== Sys2Proof/WellFormed.lean ====
section
/-! DEFINITION. Which commands are well-formed: what each row of the table takes for granted of its operands. `exec` is total and does not
ask; a command that is not well-formed stands for nothing that can come to the part. -/

namespace Sys2Proof
open Sys2Proof.Machine

/-- The record a command carries, with its tag, for the commands that arrive as a record on the control link (R176, R178). -/
def Instr.record : Instr → Option (Tag × Request)
  | .reset t => some (t, .reset)
  | .identify t b => some (t, .identify b)
  | .stageArray t b => some (t, .stageArray b)
  | .stagePolicy t b => some (t, .stagePolicy b)
  | .stageWindow t b => some (t, .stageWindow b)
  | .commit t b => some (t, .commit b)
  | .querySession t b => some (t, .querySession b)
  | .queryPlan t b => some (t, .queryPlan b)
  | .queryExtents t b => some (t, .queryExtents b)
  | .queryLosses t b => some (t, .queryLosses b)
  | .queryChannels t b => some (t, .queryChannels b)
  | .queryRate t b => some (t, .queryRate b)
  | .queryMonitors t b => some (t, .queryMonitors b)
  | .start t b => some (t, .start b)
  | .restore t b => some (t, .restore b)
  | .pause t b => some (t, .pause b)
  | .continueSession t b => some (t, .continueSession b)
  | .abort t b => some (t, .abort b)
  | .release t b => some (t, .release b)
  | .setRate t b => some (t, .setRate b)
  | .setMonitor t b => some (t, .setMonitor b)
  | .readBlocks t b => some (t, .readBlocks b)
  | .writeBlocks t b => some (t, .writeBlocks b)
  | .unknownTypeRecord ty t => some (t, .unknown ty)
  | _ => none

/-- A COMMIT body that parses names a group (R21). -/
def Groups.named (g : Groups) : Bool := g.array || g.policy || g.windows

/-- A WRITE-BLOCKS body that parses holds exactly count blocks, and no frame carries more than 32 (R115, R173, R176). -/
def WriteFields.whole (w : WriteFields) : Bool := w.blocks.length = w.count.toNat && w.count.toNat ≤ 32

/-- A command is well-formed: a body that is present parses, an unknown type is none of section 11.3, bytes are some, and a good
completion carries at most the 256 blocks of the largest command (R135). -/
def Instr.wellFormed : Instr → Bool
  | .commit _ (some g) => g.named
  | .writeBlocks _ (some w) => w.whole
  | .unknownTypeRecord ty _ => !knownType ty
  | .linkError bytes => bytes ≠ []
  | .stripCompletion _ _ (.good bs) => bs.length ≤ 256
  | .stripCompletion _ _ (.medium _ _ bs) => bs.length ≤ 256
  | _ => true

end Sys2Proof
end

