-- ==== Sys2Proof/Certificates/Slice0/Obligations.lean ====
section
/-! DEFINITION. The statements about the NK2410 for the provers. -/

section Slice0
open Sys2Proof Sys2Proof.Machine

/-! ## Steps and resets -/

/-- A step takes the command at the front of the queue and carries it out on the state with the queue's rest. On an empty queue a
millisecond passes and nothing else changes: that is the model's choice (log entry 7). -/
def Obligations.StepTakesFront : Prop :=
  (∀ c rest s, s.pending = c :: rest → step s = exec c { s with pending := rest })
    ∧ ∀ s, s.pending = [] → step s = .next { s with now := s.now + 1 }

/-- No command stops the part, and no command touches the queue of waiting commands. That no command stops is the model's choice where the
manual says that an event cannot come (log entry 1). -/
def Obligations.EveryCommandCompletes : Prop := ∀ c s, ∃ t, exec c s = .next t ∧ t.pending = s.pending

/-- Either reset, from every state, leaves every block at its reset value: no session, the default plans, empty tables and lists, lanes
PARKED, all 384 buffers free, every channel without role and link and sent the channel-reset indication, READY being sent. The values zero
of the staged ARRAY group's fields are R16's; the clock, the order 0 of READY, the empty record of sent records and the requests gathered
as bytes are the model's own (log entries 7, 11 and 41). -/
def Obligations.ResetsLeaveTheResetState : Prop :=
  ∀ s cause c, (c = .powerOnReset ∧ cause = .power ∨ Accepts s ∧ cause = .command ∧ ∃ tag, c = .reset tag) →
    ∃ t, exec c s = .next t ∧ t.pending = s.pending ∧ t.now = 0
      ∧ t.session = { state := .idle, longOp := none }
      ∧ t.plan.stagedValid = false ∧ t.plan.array = none
      ∧ t.plan.stagedArray = { members := 0, stripKiB := 0, stripes := 0, extentSize := 0, failedSlot := 0, slotMap := [], spare := 0
                               epoch := 0, fill := 0 }
      ∧ (∀ p, p = t.plan.policy ∨ p = t.plan.stagedPolicy →
          p.retryLimit = 2 ∧ p.errorLimit = 8 ∧ p.timeoutMs = 5000 ∧ p.latencyMs = 200 ∧ p.lossLimit = 64 ∧ p.periodS = 120
            ∧ p.ceiling = 4 ∧ p.quietS = 30 ∧ (∀ i : Fin 13, p.silences[i] = false)
            ∧ ∀ i : Fin 13, p.classes[i] = .urgent ↔ i ∈ [0, 1, 4, 5, 7])
      ∧ (∀ i : Fin 8, t.plan.windows[i].enable = false ∧ t.plan.windows[i].base = 0 ∧ t.plan.windows[i].mask = 0
          ∧ t.plan.windows[i].cls = .first ∧ t.plan.stagedWindows[i] = t.plan.windows[i])
      ∧ t.table = { extents := [], ahead := [], holdWaiting := false }
      ∧ (∀ l : Lane, t.lanes[l] = { state := .parked, extent := none, stripe := none, reads := [], lost := [], fill := none, accum := [] })
      ∧ t.governor = { commanded := 2, limit := 4, target := 2, effective := 2, quiet := none }
      ∧ t.locks = [] ∧ t.pool.free.length = 384 ∧ t.pool.held = [] ∧ t.pool.fgWait = [] ∧ t.pool.laneWait = [] ∧ t.queue = []
      ∧ (∀ c : Chan, t.chans[c] = { role := .unused, failed := false, linkPresent := false, resetAwaited := true, errors := 0, issued := []
                                    fgPending := [], rebuildPending := [], next := 0 } ∧ t.stripSent.count (c, .channelReset) = 1)
      ∧ t.losses = []
      ∧ t.writer = { state := .idle, next := .seq 1, slot := .a, again := false, waiting := none, period := none }
      ∧ (∀ i : Fin 4, t.monitors[i] = { event := .fgLate, mask := 0, filter := .always, action := .nothing, enable := false, count := 0 })
      ∧ t.link = { hunting := .hunt, gathered := [], carried := [], held := [], replies := [], notices := [], nextOrder := 1, resetCause := cause, sent := []
                   sender := .sending (.notice { kind := .ready, subject := 255, count := 1, order := 0, value := .resetCause cause }) }
      ∧ t.mail = { endings := [], told := [], claims := [], answers := [], grants := [], reservations := [], triggers := 0, signals := 0 }

/-- The last reset cause is POWER after a power-on reset and COMMAND after a RESET request. No other command changes it, a RESET found in
held or searched bytes excepted, which is a RESET request; the bytes of a request that arrives in FRAME are searched too. IDENTIFY and
READY carry it; the first-occurrence order 0 that READY has is the model's choice (log entry 11). -/
def Obligations.ResetCauseFollowsTheResets : Prop :=
  (∀ s, ∃ t, exec .powerOnReset s = .next t ∧ t.link.resetCause = .power
      ∧ t.link.sender = .sending (.notice { kind := .ready, subject := 255, count := 1, order := 0, value := .resetCause .power }))
    ∧ (∀ s tag, Accepts s → ∃ t, exec (.reset tag) s = .next t ∧ t.link.resetCause = .command
      ∧ t.link.sender = .sending (.notice { kind := .ready, subject := 255, count := 1, order := 0, value := .resetCause .command }))
    ∧ (∀ s c t, exec c s = .next t → t.link.resetCause = s.link.resetCause ∨ c = .powerOnReset ∨ (∃ tag, c = .reset tag)
        ∨ ((∃ bytes, c = .linkError bytes) ∨ c = .heldRecordDispatch ∨ s.link.hunting = .frame ∧ ∃ p, c.record = some p)
          ∧ t = State.afterReset .command s.pending)
    ∧ ∀ s tag, Passes tag s → ∃ t items, exec (.identify tag (some ())) s = .next t
        ∧ owed t.link = owed s.link ++ [done tag 0x01 (.identify items s.link.resetCause)]

/-! ## The plan store, the queries, the governor and the monitors as the host sees them -/

/-- IDENTIFY is answered DONE in every session state, with its items in order; QUERY PLAN with the staged plan, the validity marker, and
the active plan, the quantities B, D, C and X derived from its ARRAY group beside that group; QUERY MONITORS with all four monitors as
they stand. The contents of the two queries stand in the order of their rules. They change nothing else. -/
def Obligations.IdentifyPlanAndMonitorsReport : Prop :=
  (∀ tag s, Passes tag s → exec (.identify tag (some ())) s = .next
    (handReply (done tag 0x01 (.identify [0x2D7, 0x2410, 1, 16, 4, 384, 32, 256, 256, 4096, 8, 4] s.link.resetCause)) (backToHunt s)))
    ∧ (∀ tag s, Passes tag s → exec (.queryPlan tag (some ())) s = .next
    (handReply (done tag 0x07 (.plan
      { stagedArray := s.plan.stagedArray, stagedValid := s.plan.stagedValid, stagedPolicy := s.plan.stagedPolicy
        stagedWindows := s.plan.stagedWindows
        array := s.plan.array.map fun g =>
          { group := g, blocks := g.stripKiB / 4, data := (g.members - 1) * (g.stripKiB / 4)
            capacity := g.stripes * ((g.members - 1) * (g.stripKiB / 4)), extents := (g.stripes + g.extentSize - 1) / g.extentSize }
        policy := s.plan.policy, windows := s.plan.windows })) (backToHunt s)))
    ∧ (∀ p, contents (.plan p) = arrayFields p.stagedArray ++ [.stagedValid p.stagedValid] ++ policyFields p.stagedPolicy
      ++ p.stagedWindows.toList.flatMap windowFields
      ++ (match p.array with
        | some a => .arrayActive true :: arrayFields a.group
            ++ [.stripBlocks a.blocks, .stripeBlocks a.data, .arrayBlocks a.capacity, .extentCount a.extents]
        | none => [.arrayActive false])
      ++ policyFields p.policy ++ p.windows.toList.flatMap windowFields)
    ∧ (∀ tag s, Passes tag s → exec (.queryMonitors tag (some ())) s = .next
    (handReply (done tag 0x07 (.monitors [s.monitors[0], s.monitors[1], s.monitors[2], s.monitors[3]])) (backToHunt s)))
    ∧ ∀ m : Monitor, contents (.monitors [m]) =
      [.monitorEvent m.event, .monitorMask m.mask, .monitorFilter m.filter, .monitorAction m.action, .monitorEnable m.enable,
        .monitorCount m.count]

/-- STAGE-ARRAY is refused RANGE naming the first field out of range and writes nothing, or writes every field and makes the group valid.
STAGE-WINDOW is refused RANGE naming the index or the first field out of range and writes nothing, or writes the one staged window whole,
enabled or not, and leaves the other seven. -/
def Obligations.StageArrayAndWindowWriteOrName : Prop :=
  (∀ tag g s, Passes tag s →
    (∀ n, FirstOut (ArrayOut g) n →
      exec (.stageArray tag (some g)) s = .next (handReply (refusal tag 0x03 (.range n)) (backToHunt s)))
    ∧ ((∀ n, ¬ ArrayOut g n) → exec (.stageArray tag (some g)) s = .next
        (handReply (done tag 0x03 .none) { backToHunt s with plan := { s.plan with stagedArray := g, stagedValid := true } })))
    ∧ ∀ tag s, Passes tag s →
    (∀ f n, FirstOut (WindowOut f) n →
      exec (.stageWindow tag (some f)) s = .next (handReply (refusal tag 0x05 (.range n)) (backToHunt s)))
    ∧ ∀ (w : Window) (i : Fin 8), w.cls ≠ .normal → exec (.stageWindow tag (some (Window.fields w i))) s = .next
        (handReply (done tag 0x05 .none)
          { backToHunt s with plan := { s.plan with stagedWindows := s.plan.stagedWindows.set i w } })

/-- STAGE-POLICY is refused RANGE naming the first field out of range and writes nothing, or writes the staged POLICY group. That the
class entries are numbered 9 to 21 and the silence entries 22 to 34 is the model's choice (log entry 21). SET-MONITOR is refused RANGE
naming the first field out of range and writes nothing, or writes the one monitor whole, count included, leaves the other three, counts
nothing and is answered DONE. -/
def Obligations.StagePolicyAndSetMonitorWriteOrName : Prop :=
  ∀ tag s, Passes tag s →
    (∀ f n, FirstOut (PolicyOut f) n →
      exec (.stagePolicy tag (some f)) s = .next (handReply (refusal tag 0x04 (.range n)) (backToHunt s)))
    ∧ (∀ p, (∀ n, ¬ PolicyOut (PolicyGroup.fields p) n) → exec (.stagePolicy tag (some (PolicyGroup.fields p))) s = .next
        (handReply (done tag 0x04 .none) { backToHunt s with plan := { s.plan with stagedPolicy := p } }))
    ∧ (∀ f n, FirstOut (MonitorOut f) n →
      exec (.setMonitor tag (some f)) s = .next (handReply (refusal tag 0x0F (.range n)) (backToHunt s)))
    ∧ ∀ (m : Monitor) (i : Fin 4), exec (.setMonitor tag (some (Monitor.fields m i))) s = .next
        (handReply (done tag 0x0F .none) { backToHunt s with monitors := s.monitors.set i m })

/-- COMMIT makes its checks in order: STATE in DRAINING, STATE for ARRAY outside IDLE, INVALID-PLAN with the first failing check of the
staged ARRAY group, LIMIT-BELOW-COUNT. A refusal latches nothing. -/
def Obligations.CommitRefusesInOrder : Prop :=
  ∀ tag names s, Passes tag s → names.named = true →
    (s.session.state = .draining ∨ (names.array = true ∧ s.session.state ≠ .idle) →
      exec (.commit tag (some names)) s = .next (handReply (refusal tag 0x06 .state) (backToHunt s)))
    ∧ (∀ n, names.array = true → s.session.state = .idle → FirstOut (CommitFails s.plan) n →
      exec (.commit tag (some names)) s = .next (handReply (refusal tag 0x06 (.invalidPlan n)) (backToHunt s)))
    ∧ (s.session.state ≠ .draining → (names.array = true → s.session.state = .idle ∧ ∀ n, ¬ CommitFails s.plan n) →
        names.policy = true → s.plan.stagedPolicy.lossLimit < s.losses.length →
      exec (.commit tag (some names)) s = .next (handReply (refusal tag 0x06 .limitBelowCount) (backToHunt s)))

/-- A COMMIT that passes its checks replaces the named groups together, leaves the others, and is answered DONE. A POLICY latch recomputes
the target level and adjusts the effective level; a WINDOWS latch derives every extent's class anew and evaluates the hold-waiting flag,
as part of the latch; HOLD-WAITING is shown where that sets it. Parked lanes wake in RUNNING while a candidate exists, the lowest first,
until as many work as the effective level allows: on new windows, and on a new policy as the level rises or a lowering ends, a level
lowered at once counted as such (log entry 26). Working lanes, the session and the rest are not touched. -/
def Obligations.CommitLatchesTheNamedGroups : Prop :=
  ∀ tag names s, Passes tag s → names.named = true → s.session.state ≠ .draining →
    (names.array = true → s.session.state = .idle ∧ ∀ n, ¬ CommitFails s.plan n) →
    (names.policy = true → s.losses.length ≤ s.plan.stagedPolicy.lossLimit) →
    ∃ t, exec (.commit tag (some names)) s = .next t
      ∧ t.plan = { s.plan with
          array := if names.array then some s.plan.stagedArray else s.plan.array
          policy := if names.policy then s.plan.stagedPolicy else s.plan.policy
          windows := if names.windows then s.plan.stagedWindows else s.plan.windows }
      ∧ owed t.link = owed s.link ++ [done tag 0x06 .none]
      ∧ t.table.ahead = s.table.ahead ∧ t.table.extents.length = s.table.extents.length
      ∧ (∀ (x : Nat) r, s.table.extents[x]? = some r →
          t.table.extents[x]? = some (if names.windows then { r with cls := classOf s.plan.stagedWindows x } else r))
      ∧ (names.windows = true → s.table.extents ≠ [] → HoldFlagEvaluated s.table.holdWaiting t)
      ∧ (names.windows = false ∨ s.table.extents = [] → t.table.holdWaiting = s.table.holdWaiting)
      ∧ (names.policy = false → t.governor = s.governor)
      ∧ (names.policy = true → t.governor = { s.governor with
          target := min s.governor.commanded (min s.plan.stagedPolicy.ceiling s.governor.limit)
          effective := effectiveAfter (min s.governor.commanded (min s.plan.stagedPolicy.ceiling s.governor.limit)) s.governor.effective
            (workingLanes s.lanes) })
      ∧ t.mail = { s.mail with claims := t.mail.claims }
      ∧ (names.windows = true → (∃ closing, s.session.state = .running closing) → WakesAsAdmitted s t)
      ∧ (names.windows = false → names.policy = true → LanesFollow s t)
      ∧ ((∀ closing, s.session.state ≠ .running closing) ∨ names.windows = false ∧ names.policy = false → WakesNone s t)
      ∧ t.now = s.now ∧ t.session = s.session ∧ t.locks = s.locks ∧ t.pool = s.pool ∧ t.queue = s.queue ∧ t.chans = s.chans
      ∧ t.stripSent = s.stripSent ∧ t.losses = s.losses ∧ t.writer = s.writer ∧ t.monitors = s.monitors

/-- QUERY RATE is answered DONE in every session state with the governor's levels, its timer and the lanes; with the law of the levels it
never shows more working lanes than the effective level, and shows both above T while a lowering is pending. QUERY SESSION and QUERY
CHANNELS are answered DONE in every session state with what the session controller, the extent table, the loss list, the writer and the
channels hold. The contents stand in the order of their rules, the closing mark beside the session state. They change nothing else. -/
def Obligations.QueryRateSessionAndChannelsReport : Prop :=
  (∀ tag s, Passes tag s → ∃ working rows, exec (.queryRate tag (some ())) s = .next
      (handReply (done tag 0x07 (.rate s.governor.commanded s.plan.policy.ceiling s.governor.limit s.governor.target s.governor.effective
        (decide (s.governor.target < s.governor.effective)) (s.governor.quiet.map (· - s.now)) working rows)) (backToHunt s))
    ∧ working = (List.finRange 4).countP (fun l : Lane => s.lanes[l].state ≠ .parked) ∧ rows.length = 4
    ∧ (∀ l : Lane, rows[l.val]? = some { state := s.lanes[l].state, extent := s.lanes[l].extent, stripe := s.lanes[l].stripe })
    ∧ (RateLaw s → working ≤ s.governor.effective ∧ (s.governor.target < s.governor.effective → s.governor.target < working)))
    ∧ (∀ commanded ceiling limit target effective lowering quiet working (r : LaneReport),
      contents (.rate commanded ceiling limit target effective lowering quiet working [r]) =
        [.commandedLevel commanded, .ceiling ceiling, .governorLimit limit, .targetLevel target, .effectiveLevel effective,
          .loweringPending lowering, .quietRunning quiet.isSome, .quietMs quiet, .workingLanes working,
          .laneState r.state, .laneExtent r.extent, .laneStripe r.stripe])
    ∧ (∀ tag s, Passes tag s → ∃ counts kind, exec (.querySession tag (some ())) s = .next
        (handReply (done tag 0x07 (.session s.session.state s.session.longOp counts s.table.ahead.length s.losses.length
          s.plan.policy.lossLimit kind s.writer.next s.writer.slot)) (backToHunt s))
      ∧ counts.pending = s.table.extents.countP (fun r => r.state = .pending)
      ∧ counts.active = s.table.extents.countP (·.isActive) ∧ counts.done = s.table.extents.countP (fun r => r.state = .done)
      ∧ counts.pending + counts.active + counts.partDone + counts.done = s.table.extents.length
      ∧ (kind = .idle ↔ s.writer.state = .idle) ∧ (kind = .writing ↔ ∃ w, s.writer.state = .writing w)
      ∧ (kind = .reading ↔ ∃ r, s.writer.state = .reading r))
    ∧ (∀ closing op counts ahead losses limit writer next slot,
      contents (.session (.running closing) op counts ahead losses limit writer next slot) =
        [.sessionState (.running false), .closingMark closing, .longOperation op, .pendingExtents counts.pending,
          .activeExtents counts.active, .partialExtents counts.partDone, .doneExtents counts.done, .aheadStripes ahead,
          .lossRecords losses, .lossLimit limit, .writerState writer, .nextSequence next, .nextSlot slot])
    ∧ (∀ tag s, Passes tag s → ∃ rows, exec (.queryChannels tag (some ())) s = .next
        (handReply (done tag 0x07 (.channels rows)) (backToHunt s))
      ∧ rows.length = 16
      ∧ ∀ c : Chan, rows[c.val]? = some
          { role := s.chans[c].role, failed := s.chans[c].failed, linkPresent := s.chans[c].linkPresent
            resetAwaited := s.chans[c].resetAwaited, errors := s.chans[c].errors, issued := s.chans[c].issued.length
            orphans := s.chans[c].issued.countP isOrphan, fgPending := s.chans[c].fgPending.length
            rebuildPending := s.chans[c].rebuildPending.length })
    ∧ ∀ r : ChannelReport, contents (.channels [r]) =
      [.role r.role, .failed r.failed, .linkPresent r.linkPresent, .resetAwaited r.resetAwaited, .errorCount r.errors,
        .issuedCommands r.issued, .orphanCommands r.orphans, .foregroundPending r.fgPending, .rebuildPending r.rebuildPending]

/-- QUERY EXTENTS is refused STATE without records, RANGE for its count, then for its first index, and otherwise reports the covered
extents and their stripes of the ahead set. QUERY LOSSES is refused STATE in IDLE and RESTORING, RANGE for its count, and otherwise
reports the records from the first index on. The premise on the table, that it holds records only beside an active ARRAY group, holds of
every state that a run reaches. -/
def Obligations.QueryExtentsAndLossesReport : Prop :=
  ∀ tag (q : IndexSpan) s, Passes tag s →
    (s.table.extents = [] →
      exec (.queryExtents tag (some q)) s = .next (handReply (refusal tag 0x07 .state) (backToHunt s)))
    ∧ (s.table.extents ≠ [] → ¬ (1 ≤ q.count ∧ q.count ≤ 256) →
      exec (.queryExtents tag (some q)) s = .next (handReply (refusal tag 0x07 (.range 2)) (backToHunt s)))
    ∧ (s.table.extents ≠ [] → 1 ≤ q.count → q.count ≤ 256 → s.table.extents.length ≤ q.first →
      exec (.queryExtents tag (some q)) s = .next (handReply (refusal tag 0x07 (.range 1)) (backToHunt s)))
    ∧ (∀ g, s.plan.array = some g → 1 ≤ q.count → q.count ≤ 256 → q.first < s.table.extents.length →
      ∃ rows ahead, exec (.queryExtents tag (some q)) s = .next
          (handReply (done tag 0x07 (.extents s.table.extents.length s.table.holdWaiting rows ahead)) (backToHunt s))
        ∧ rows.length = min q.count (s.table.extents.length - q.first)
        ∧ (∀ i r, i < q.count → s.table.extents[q.first + i]? = some r →
            rows[i]? = some { index := q.first + i, length := extentLength g (q.first + i), record := r })
        ∧ ahead.Sublist s.table.ahead
        ∧ ∀ n ∈ s.table.ahead, n ∈ ahead ↔ q.first ≤ n / g.extentSize ∧ n / g.extentSize < q.first + q.count)
    ∧ (s.session.state = .idle ∨ s.session.state = .restoring →
      exec (.queryLosses tag (some q)) s = .next (handReply (refusal tag 0x07 .state) (backToHunt s)))
    ∧ (s.session.state ≠ .idle → s.session.state ≠ .restoring → ¬ (1 ≤ q.count ∧ q.count ≤ 64) →
      exec (.queryLosses tag (some q)) s = .next (handReply (refusal tag 0x07 (.range 2)) (backToHunt s)))
    ∧ (s.session.state ≠ .idle → s.session.state ≠ .restoring → 1 ≤ q.count → q.count ≤ 64 →
      exec (.queryLosses tag (some q)) s = .next (handReply
        (done tag 0x07 (.losses s.losses.length s.plan.policy.lossLimit ((s.losses.drop q.first).take q.count))) (backToHunt s)))

/-- SET-RATE is refused RANGE for a level above 4 and changes nothing. Otherwise, in every session state, the commanded level is written,
T is recomputed, the effective level follows it at once unless a lowering waits for lanes to park, RATE-CHANGED tells of a change, and
SET-RATE is answered DONE. In RUNNING with a candidate, parked lanes wake when the effective level rises or a lowering ends, the lowest
first, until as many work as the effective level allows; that a level lowered at once counts as a lowering ended is log entry 26. A lane
that works goes on. -/
def Obligations.SetRateCommandsTheLevel : Prop :=
  ∀ tag level s, Passes tag s →
    (4 < level → exec (.setRate tag (some level)) s = .next (handReply (refusal tag 0x0E (.range 1)) (backToHunt s)))
    ∧ (level ≤ 4 → ∃ t, exec (.setRate tag (some level)) s = .next t
      ∧ t.governor = { s.governor with
          commanded := level
          target := min level (min s.plan.policy.ceiling s.governor.limit)
          effective := effectiveAfter (min level (min s.plan.policy.ceiling s.governor.limit)) s.governor.effective (workingLanes s.lanes) }
      ∧ owed t.link = owed s.link ++ [done tag 0x0E .none]
      ∧ (t.governor.effective ≠ s.governor.effective → silenced s.plan.policy .rateChanged = false →
          Shown .rateChanged 255 (.level t.governor.effective) t.link)
      ∧ LanesFollow s t ∧ t.mail = { s.mail with claims := t.mail.claims }
      ∧ t.now = s.now ∧ t.plan = s.plan ∧ t.session = s.session ∧ t.table = s.table ∧ t.locks = s.locks ∧ t.pool = s.pool
      ∧ t.queue = s.queue ∧ t.chans = s.chans ∧ t.stripSent = s.stripSent ∧ t.losses = s.losses ∧ t.writer = s.writer
      ∧ t.monitors = s.monitors)

/-- An event that a block raises is offered to each monitor. Exactly the monitors that are enabled, watch the event, pass its channel and
whose filter passes step their count by one, from 4294967295 to 0; a step to 0 of a monitor whose action governs signals the governor, and
of one whose action notifies shows MONITOR-OVERFLOW with the monitor as subject. -/
def Obligations.EventsStepTheMonitorsThatCountThem : Prop :=
  ∀ (e : EventKind) (c : Option Chan) (s : State),
    (∀ i : Fin 4, (raiseEvent e c s).monitors[i] =
        if s.monitors[i].enable = true ∧ s.monitors[i].event = e
            ∧ (e = .memberRetry ∨ e = .memberTimeout → ∃ k, c = some k ∧ s.monitors[i].mask.getLsbD k.val = true)
            ∧ (s.monitors[i].filter = .whileRunning → ∃ closing, s.session.state = .running closing)
        then { s.monitors[i] with count := s.monitors[i].count + 1 } else s.monitors[i])
    ∧ (raiseEvent e c s).mail.signals = s.mail.signals + (List.finRange 4).countP (fun i : Fin 4 =>
        (raiseEvent e c s).monitors[i].count = 0 ∧ s.monitors[i].count ≠ 0
          ∧ (s.monitors[i].action = .govern ∨ s.monitors[i].action = .both))
    ∧ (silenced s.plan.policy .monitorOverflow = false → ∀ i : Fin 4,
        (raiseEvent e c s).monitors[i].count = 0 → s.monitors[i].count ≠ 0 →
        s.monitors[i].action = .notice ∨ s.monitors[i].action = .both →
        Shown .monitorOverflow i.val (.event e) (raiseEvent e c s).link)

/-! ## The session requests -/

/-- The channels that START examines, and the refusals of the six session requests, each in the order of its rule: BUSY before STATE for
START, RESTORE and PAUSE, then the ARRAY group, then the links; ABORT BUSY beside RESTORE or ABORT; RELEASE BUSY while work stands. A
refused request changes nothing but the replies. -/
def Obligations.SessionRequestsAreRefusedInOrder : Prop :=
  ∀ tag s, Passes tag s →
    (s.session.longOp ≠ none →
      exec (.start tag (some ())) s = .next (handReply (refusal tag 0x08 .busy) (backToHunt s))
      ∧ exec (.restore tag (some ())) s = .next (handReply (refusal tag 0x09 .busy) (backToHunt s))
      ∧ exec (.pause tag (some ())) s = .next (handReply (refusal tag 0x0A .busy) (backToHunt s)))
    ∧ (s.session.longOp = none → s.session.state ≠ .idle ∨ s.plan.array = none →
      exec (.start tag (some ())) s = .next (handReply (refusal tag 0x08 .state) (backToHunt s))
      ∧ exec (.restore tag (some ())) s = .next (handReply (refusal tag 0x09 .state) (backToHunt s)))
    ∧ (∀ g before c after, s.session.longOp = none → s.session.state = .idle → s.plan.array = some g →
      ((List.range g.members).filter (· ≠ g.failedSlot)).map (mappedChan g) ++ [spareChan g] = before ++ c :: after →
      (∀ k ∈ before, s.chans[k].linkPresent = true) → s.chans[c].linkPresent = false →
      exec (.start tag (some ())) s = .next (handReply (refusal tag 0x08 (.noLink c.val)) (backToHunt s)))
    ∧ (∀ g, s.session.longOp = none → s.session.state = .idle → s.plan.array = some g → s.chans[spareChan g].linkPresent = false →
      exec (.restore tag (some ())) s = .next (handReply (refusal tag 0x09 (.noLink (spareChan g).val)) (backToHunt s)))
    ∧ (s.session.longOp = none → (∀ closing, s.session.state ≠ .running closing) →
      exec (.pause tag (some ())) s = .next (handReply (refusal tag 0x0A .state) (backToHunt s)))
    ∧ (s.session.longOp = none → s.session.state = .running true →
      exec (.pause tag (some ())) s = .next (handReply (refusal tag 0x0A .busy) (backToHunt s)))
    ∧ (s.session.state ≠ .paused → s.session.state ≠ .lossStop →
      exec (.continueSession tag (some ())) s = .next (handReply (refusal tag 0x0B .state) (backToHunt s)))
    ∧ (s.session.state = .paused ∨ s.session.state = .lossStop → s.plan.policy.lossLimit ≤ s.losses.length →
      exec (.continueSession tag (some ())) s = .next (handReply (refusal tag 0x0B .limitBelowCount) (backToHunt s)))
    ∧ ((∃ t, s.session.longOp = some ⟨.restore, t⟩ ∨ s.session.longOp = some ⟨.abort, t⟩) →
      exec (.abort tag (some ())) s = .next (handReply (refusal tag 0x0C .busy) (backToHunt s)))
    ∧ (s.session.longOp = none →
        s.session.state ∈ [.idle, .complete, .halted .secondMember, .halted .memberAfterComplete, .targetFailed] →
      exec (.abort tag (some ())) s = .next (handReply (refusal tag 0x0C .state) (backToHunt s)))
    ∧ (s.session.state ∉ [.complete, .halted .secondMember, .halted .memberAfterComplete, .targetFailed] →
      exec (.release tag (some ())) s = .next (handReply (refusal tag 0x0D .state) (backToHunt s)))
    ∧ (s.session.state ∈ [.complete, .halted .secondMember, .halted .memberAfterComplete, .targetFailed] →
        s.queue ≠ [] ∨ orphanCount s ≠ 0 ∨ (∃ w, s.writer.state = .writing w) ∨ s.writer.waiting ≠ none →
      exec (.release tag (some ())) s = .next (handReply (refusal tag 0x0D .busy) (backToHunt s)))

/-- START, with its checks passed on an ARRAY group that has passed its own, makes START the long operation, enters STARTING, creates
every extent PENDING with its class, empties the ahead set and the lost-strip list, evaluates the hold-waiting flag, with HOLD-WAITING
where that sets it, gives the roles, and hands the spare channel the write of the record with sequence 1, marked RUNNING, in slot A.
RESTORE, with its checks passed, makes RESTORE the long operation, enters RESTORING, gives the spare channel alone a role, TARGET, and
hands it the read of six blocks from the start of slot A. Neither is answered yet, and nothing else changes. -/
def Obligations.StartAndRestoreBegin : Prop :=
  (∀ tag g s, Passes tag s → s.session.longOp = none → s.session.state = .idle → s.plan.array = some g →
    arrayField g = none → commitCheck g = none →
    (∀ j, Surviving g j → s.chans[mappedChan g j].linkPresent = true) → s.chans[spareChan g].linkPresent = true →
    s.chans[spareChan g].failed = false →
    ∃ t blocks, exec (.start tag (some ())) s = .next t
      ∧ t.session = { state := .starting, longOp := some { kind := .start, tag } }
      ∧ t.table.extents = (List.range (extentCount g)).map (fun x => { state := .pending, cls := classOf s.plan.windows x })
      ∧ t.table.ahead = [] ∧ HoldFlagEvaluated s.table.holdWaiting t ∧ t.losses = []
      ∧ (∀ j, Surviving g j → t.chans[mappedChan g j] = { s.chans[mappedChan g j] with role := .survivor j })
      ∧ (∀ c, c ≠ spareChan g → (∀ j, Surviving g j → mappedChan g j ≠ c) → t.chans[c] = { s.chans[c] with role := .unused })
      ∧ blocks = blocksOfBytes (recordBytes g 1 .running s.plan.policy.lossLimit t.table.extents [])
      ∧ t.chans[spareChan g] = { s.chans[spareChan g] with
          role := .target
          rebuildPending := s.chans[spareChan g].rebuildPending ++
            [{ issuer := .checkpoint, write := true, block := areaStart g .a, count := blocks.length, blocks }] }
      ∧ t.writer = { s.writer with state := .writing { mark := .running, sequence := 1, slot := .a }, next := .seq 1, slot := .a }
      ∧ owed t.link = owed s.link
      ∧ (silenced s.plan.policy .sessionState = false → Shown .sessionState 255 (.session .starting) t.link)
      ∧ t.now = s.now ∧ t.plan = s.plan ∧ t.lanes = s.lanes ∧ t.governor = s.governor ∧ t.locks = s.locks ∧ t.pool = s.pool
      ∧ t.queue = s.queue ∧ t.stripSent = s.stripSent ∧ t.monitors = s.monitors ∧ t.mail = s.mail)
    ∧ ∀ tag g s, Passes tag s → s.session.longOp = none → s.session.state = .idle → s.plan.array = some g →
    s.chans[spareChan g].linkPresent = true → s.chans[spareChan g].failed = false →
    ∃ t, exec (.restore tag (some ())) s = .next t
      ∧ t.session = { state := .restoring, longOp := some { kind := .restore, tag } }
      ∧ (∀ c, c ≠ spareChan g → t.chans[c] = s.chans[c])
      ∧ t.chans[spareChan g] = { s.chans[spareChan g] with
          role := .target
          rebuildPending := s.chans[spareChan g].rebuildPending ++
            [{ issuer := .checkpoint, write := false, block := g.stripes * stripBlocks g, count := 6, blocks := [] }] }
      ∧ t.writer = { s.writer with state := .reading { a := .notRead, b := .notRead, current := .a, attempts := 1 } }
      ∧ owed t.link = owed s.link
      ∧ (silenced s.plan.policy .sessionState = false → Shown .sessionState 255 (.session .restoring) t.link)
      ∧ t.now = s.now ∧ t.plan = s.plan ∧ t.table = s.table ∧ t.lanes = s.lanes ∧ t.governor = s.governor ∧ t.locks = s.locks
      ∧ t.pool = s.pool ∧ t.queue = s.queue ∧ t.stripSent = s.stripSent ∧ t.losses = s.losses ∧ t.monitors = s.monitors
      ∧ t.mail = s.mail

/-- PAUSE taken in RUNNING without the closing mark becomes the long operation and enters PAUSING with cause REQUEST; the period timer
stops. While a lane works nothing else changes. With every lane PARKED the PAUSED record is asked for at once: begun if the writer is
idle, waiting behind a RUNNING-marked write in flight. With the next sequence EXHAUSTED an idle writer writes no record, and the spare is
declared FAILED with cause REPORT. Two things are the model's choice: that the writer takes the triggers on their way first, so that a
RUNNING record of theirs precedes the marked one (log entry 38), and that no write is begun while the spare is FAILED (log entry 37). -/
def Obligations.PauseBeginsPausing : Prop :=
  ∀ tag s, Passes tag s → s.session.longOp = none → s.session.state = .running false →
    ∃ t, exec (.pause tag (some ())) s = .next t
      ∧ t.session = { state := .pausing .request, longOp := some { kind := .pause, tag } }
      ∧ owed t.link = owed s.link ∧ t.writer.period = none
      ∧ (silenced s.plan.policy .sessionState = false → Shown .sessionState 255 (.session (.pausing .request)) t.link)
      ∧ ((∃ l : Lane, s.lanes[l].state ≠ .parked) →
          t.writer = { s.writer with period := none } ∧ t.chans = s.chans ∧ t.pool = s.pool ∧ t.mail = s.mail)
      ∧ ((∀ l : Lane, s.lanes[l].state = .parked) → s.writer.waiting = none → s.writer.next ≠ .exhausted →
          (∀ w, s.writer.state = .writing w → w.mark = .running) → t.mail = { s.mail with triggers := 0 })
      ∧ (∀ g n, (∀ l : Lane, s.lanes[l].state = .parked) → s.plan.array = some g → s.writer.state = .idle → s.writer.waiting = none →
          s.writer.next = .seq n → s.chans[spareChan g].failed = false → s.mail.triggers = 0 →
          t.writer = { s.writer with state := .writing { mark := .paused, sequence := n, slot := s.writer.slot }, period := none }
          ∧ ∃ cmd, t.chans[spareChan g] = { s.chans[spareChan g] with rebuildPending := s.chans[spareChan g].rebuildPending ++ [cmd] }
            ∧ cmd.issuer = .checkpoint ∧ cmd.write = true ∧ cmd.block = areaStart g s.writer.slot ∧ cmd.count = cmd.blocks.length
            ∧ cmd.blocks = blocksOfBytes (recordBytes g n .paused s.plan.policy.lossLimit s.table.extents s.losses))
      ∧ (∀ g n, (∀ l : Lane, s.lanes[l].state = .parked) → s.plan.array = some g → s.writer.state = .idle → s.writer.waiting = none →
          s.writer.next = .seq n → s.chans[spareChan g].failed = false → 0 < s.mail.triggers →
          t.writer = { s.writer with
            state := .writing { mark := .running, sequence := n, slot := s.writer.slot }, again := t.writer.again
            waiting := some .paused, period := none })
      ∧ (∀ g, (∀ l : Lane, s.lanes[l].state = .parked) → s.plan.array = some g → s.writer.state = .idle → s.writer.waiting = none →
          s.chans[spareChan g].failed = true →
          t.writer = { s.writer with period := none } ∧ t.chans = s.chans ∧ t.mail = { s.mail with triggers := 0 })
      ∧ (∀ g, (∀ l : Lane, s.lanes[l].state = .parked) → s.plan.array = some g → s.writer.state = .idle → s.writer.waiting = none →
          s.writer.next = .exhausted → s.chans[spareChan g].failed = false →
          t.writer = { s.writer with period := none } ∧ t.mail.triggers = 0 ∧ DeclaredOnReport (spareChan g) s t)
      ∧ (∀ w, (∀ l : Lane, s.lanes[l].state = .parked) → s.writer.state = .writing w → w.mark = .running → s.writer.waiting = none →
          t.writer = { s.writer with
            again := s.writer.again || decide (0 < s.mail.triggers), waiting := some .paused, period := none }
          ∧ t.chans = s.chans ∧ t.mail = { s.mail with triggers := 0 })
      ∧ t.now = s.now ∧ t.plan = s.plan ∧ t.table = s.table ∧ t.lanes = s.lanes ∧ t.governor = s.governor ∧ t.locks = s.locks
      ∧ t.queue = s.queue ∧ t.stripSent = s.stripSent ∧ t.losses = s.losses ∧ t.monitors = s.monitors

/-- CONTINUE taken in PAUSED or LOSS-STOP with a list shorter than the loss limit is answered DONE and enters RUNNING; the period timer
starts. That the reply is handed over before RUNNING is entered is the model's choice (log entry 14). With every extent DONE and every
lane PARKED the closing mark is set and the COMPLETE record asked for: an idle writer begins it and hands the spare channel its content,
behind a write in flight it waits; that none is begun while the spare is FAILED is the model's choice (log entry 37). Parked lanes wake
while a candidate exists and no lowering is pending, the lowest first, until as many work as the effective level allows; a lane that works
goes on. -/
def Obligations.ContinueRunsTheSession : Prop :=
  ∀ tag s, Passes tag s → s.session.state = .paused ∨ s.session.state = .lossStop → s.losses.length < s.plan.policy.lossLimit →
    ∃ t, exec (.continueSession tag (some ())) s = .next t
      ∧ t.session.longOp = s.session.longOp ∧ owed t.link = owed s.link ++ [done tag 0x0B .none]
      ∧ t.writer.period = some (s.now + s.plan.policy.periodS * 1000)
      ∧ (silenced s.plan.policy .sessionState = false → Shown .sessionState 255 (.session (.running false)) t.link)
      ∧ ((∀ r ∈ s.table.extents, r.state = .done) → (∀ l : Lane, s.lanes[l].state = .parked) → t.session.state = .running true
          ∧ t.lanes = s.lanes ∧ ∀ g, s.plan.array = some g → CompletionAsked g s t)
      ∧ ((∃ r ∈ s.table.extents, r.state ≠ .done) → t.session.state = .running false ∧ t.chans = s.chans ∧ t.pool = s.pool
          ∧ t.writer = { s.writer with period := t.writer.period } ∧ t.mail = { s.mail with claims := t.mail.claims })
      ∧ WakesAsAdmitted s t
      ∧ t.now = s.now ∧ t.plan = s.plan ∧ t.table = s.table ∧ t.governor = s.governor ∧ t.locks = s.locks
      ∧ t.queue = s.queue ∧ t.stripSent = s.stripSent ∧ t.losses = s.losses ∧ t.monitors = s.monitors

/-- ABORT taken in STARTING, RUNNING, PAUSING, PAUSED or LOSS-STOP answers an overtaken START or PAUSE with OVERTAKEN, becomes the long
operation, enters DRAINING, parks every lane, and quiets the writer, whose write in flight runs on. If the lanes wait as their states say,
they let go of what they held or awaited: extents, locks, buffers, and commands, of which those issued are orphaned and keep their
buffers. ABORT is not answered yet. -/
def Obligations.AbortDrainsTheSession : Prop :=
  ∀ tag s, Passes tag s →
    (s.session.state ∈ [.starting, .paused, .lossStop] ∨ (∃ closing, s.session.state = .running closing)
      ∨ ∃ cause, s.session.state = .pausing cause) →
    (∀ op, s.session.longOp = some op → op.kind = .start ∨ op.kind = .pause) →
    ∃ t, exec (.abort tag (some ())) s = .next t
      ∧ t.session = { state := .draining, longOp := some { kind := .abort, tag } }
      ∧ owed t.link = owed s.link ++ (s.session.longOp.toList.map fun op =>
          { tag := op.tag, type := longType op.kind, answer := .overtaken, result := .none })
      ∧ (silenced s.plan.policy .sessionState = false → Shown .sessionState 255 (.session .draining) t.link)
      ∧ (∀ l : Lane, t.lanes[l].state = .parked)
      ∧ (LanesWaitAsTheySay s → LetGo s t)
      ∧ (∀ (l : Lane) x r cursor holder, HeldExtent s l x → s.table.extents[x]? = some r → r.state = .active cursor holder →
          t.table.extents[x]? = some { r with state := .partDone cursor })
      ∧ t.writer = { s.writer with again := false, waiting := none, period := none }
      ∧ t.now = s.now ∧ t.plan = s.plan ∧ t.queue = s.queue ∧ t.stripSent = s.stripSent ∧ t.losses = s.losses
      ∧ t.monitors = s.monitors

/-- RELEASE taken in COMPLETE, HALTED or TARGET-FAILED with no work standing is answered DONE and returns the session to IDLE: no records,
no losses, no roles, every condition ONLINE with error count 0, links kept, the writer idle. Plan, governor and monitors are kept. That
the reply is handed over before the return to IDLE is the model's choice (log entry 14), and so it is that what was handed to the session
and not yet taken goes with it (log entry 10). -/
def Obligations.ReleaseReturnsToIdle : Prop :=
  ∀ tag s, Passes tag s → s.session.state ∈ [.complete, .halted .secondMember, .halted .memberAfterComplete, .targetFailed] →
    s.queue = [] → orphanCount s = 0 → (∀ w, s.writer.state ≠ .writing w) → s.writer.waiting = none →
    ∃ t, exec (.release tag (some ())) s = .next t
      ∧ t.session = { state := .idle, longOp := none } ∧ t.table = { extents := [], ahead := [], holdWaiting := false } ∧ t.losses = []
      ∧ (∀ c : Chan, t.chans[c] = { s.chans[c] with role := .unused, failed := false, errors := 0 })
      ∧ t.writer = { state := .idle, next := .seq 1, slot := .a, again := false, waiting := none, period := none }
      ∧ owed t.link = owed s.link ++ [done tag 0x0D .none]
      ∧ (silenced s.plan.policy .sessionState = false → Shown .sessionState 255 (.session .idle) t.link)
      ∧ t.mail = { s.mail with told := [], claims := [], answers := [], triggers := 0 }
      ∧ t.now = s.now ∧ t.plan = s.plan ∧ t.lanes = s.lanes ∧ t.governor = s.governor ∧ t.locks = s.locks ∧ t.pool = s.pool
      ∧ t.queue = s.queue ∧ t.stripSent = s.stripSent ∧ t.monitors = s.monitors

/-! ## The control link -/

/-- A record that arrives while 15 replies wait or something is held is held behind it; that a RESET too waits behind what is held is the
model's choice (log entry 13). One that is taken in HUNT is refused UNKNOWN for an unknown type, TAG-IN-USE for an outstanding tag,
MALFORMED for a body that does not parse, in this order; a RESET is neither checked nor answered. The receiver stands in HUNT with nothing
gathered. A record that arrives in FRAME is gathered as bytes into that frame: it is taken as the bytes of its own frame, no more than a
frame may carry, and if the search finds those of a well-formed request they are that request again, for a body that the manual lays out
whatever else was gathered, a body that does not parse by its layout among them; what the bytes of such a body are, and of one that the
manual does not lay out, is open (log entry 41). The record that dispatch holds is taken in the same way when fewer than 15 replies wait, what is held behind it staying held; while 15 or more
wait it stays held. Bytes that arrive while 15 replies wait or something is held join what is held, unsearched (log entry 13). When fewer
than 15 replies wait, bytes at the front of what is held are taken as if they had just arrived, in one step (log entry 34); what is held
behind them stays held, unless a RESET is found in them. -/
def Obligations.DispatchChecksInOrder : Prop :=
  ((∀ c tag r s, c.record = some (tag, r) → ¬ Receives s →
      exec c s = .next { s with link := { s.link with held := s.link.held ++ [.record tag r] } })
    ∧ (∀ type tag s, Accepts s →
      exec (.unknownTypeRecord type tag) s = .next (handReply (refusal tag type .unknown) (backToHunt s)))
    ∧ (∀ c tag r s, c.record = some (tag, r) → (∀ type, r ≠ .unknown type) → r ≠ .reset → Accepts s → tagOutstanding s tag = true →
      exec c s = .next (handReply (refusal tag (typeCode r) .tagInUse) (backToHunt s)))
    ∧ ∀ c tag r s, c.record = some (tag, r) → (∀ type, r ≠ .unknown type) → r ≠ .reset → Passes tag s → parses r = false →
      exec c s = .next (handReply (refusal tag (typeCode r) .malformed) (backToHunt s)))
    ∧ (∀ c tag r, c.record = some (tag, r) →
    (∀ s, Accepts s → exec c s = .next (dispatch tag r (backToHunt s)))
    ∧ (∀ s, Receives s → s.link.hunting = .frame →
      exec c s = exec (.linkError (frame (typeCode r) tag (bodyBytes r))) { s with link := { s.link with carried := r :: s.link.carried } }
      ∧ (c.wellFormed = true → (bodyBytes r).length ≤ 131136
        ∧ requestFrom (r :: s.link.carried) (typeCode r) (bodyBytes r) = r
        ∧ (typeCode r ∉ [0x03#8, 0x04#8, 0x05#8, 0x06#8, 0x07#8, 0x0E#8, 0x0F#8] → ∀ carried,
            requestFrom carried (typeCode r) (bodyBytes r) = r)))
    ∧ (∀ s rest, s.link.held = .record tag r :: rest → s.link.replies.length < 15 → s.link.hunting = .frame →
      exec .heldRecordDispatch s = exec .heldRecordDispatch { s with
        link := { s.link with
          held := .bytes (frame (typeCode r) tag (bodyBytes r)) :: rest, carried := r :: s.link.carried } })
    ∧ (∀ s rest, s.link.held = .record tag r :: rest → s.link.replies.length < 15 → s.link.hunting = .hunt →
      exec .heldRecordDispatch s = .next (dispatch tag r (backToHunt { s with link := { s.link with held := rest } })))
    ∧ ∀ s, 15 ≤ s.link.replies.length → exec .heldRecordDispatch s = .next s)
    ∧ (∀ bytes s, ¬ Receives s →
      exec (.linkError bytes) s = .next { s with link := { s.link with held := s.link.held ++ [.bytes bytes] } })
    ∧ ∀ bytes rest s, s.link.held = .bytes bytes :: rest → s.link.replies.length < 15 →
      ∃ t, exec (.linkError bytes) { s with link := { s.link with held := [] } } = .next t
        ∧ (rest = [] → exec .heldRecordDispatch s = .next t)
        ∧ (t ≠ State.afterReset .command s.pending →
          exec .heldRecordDispatch s = .next { t with link := { t.link with held := t.link.held ++ rest } })
        ∧ (t = State.afterReset .command s.pending → exec .heldRecordDispatch s = .next t
          ∨ s.now = 0 ∧ exec .heldRecordDispatch s = .next { t with link := { t.link with held := t.link.held ++ rest } })

/-- In bytes before whose first start code stands no other: a frame is bad whose body length is above 131136, or whose check is not the
CRC-32 of its type, tag, length and body. It is discarded and raises LINK-ERROR with the reason and the type byte as received, and the
search goes on behind its start code: the bytes there are taken as if they had just arrived, so a record that begins inside them is found.
With no start code there, what may still become one stays gathered, and nothing is answered. A frame with a right check is dispatched.
While the reply queue then holds fewer than 15 replies the bytes behind it are taken as if they had just arrived, but a RESET discards
them; with 15 or more they are held unsearched. What request a frame carries is what its type and body spell, or, for a type whose body
the manual does not lay out, where its bytes came as a request that arrived in FRAME, that request (log entry 41). For the other types
whether the body parses is decided by the frame alone: an empty body is empty, READ-BLOCKS has 16 bytes, and WRITE-BLOCKS 16 and 4096 for
each block of its count. That bytes which arrive together are taken in one step is the model's choice
(log entry 34). -/
def Obligations.FramesAreJudged : Prop :=
  ∀ bytes noise type t1 t0 l3 l2 l1 l0 rest len s r, Receives s →
    s.link.gathered ++ bytes = noise ++ 0xD2#8 :: 0x4B#8 :: type :: t1 :: t0 :: l3 :: l2 :: l1 :: l0 :: rest → NoStart noise →
    len = bytesToNat [l3, l2, l1, l0] → r = requestFrom s.link.carried type (rest.take len) →
    (s.link.carried = [] ∨ type ∉ [0x03#8, 0x04#8, 0x05#8, 0x06#8, 0x07#8, 0x0E#8, 0x0F#8] → r = requestOf type (rest.take len))
    ∧ (type ∈ [0x01#8, 0x08#8, 0x09#8, 0x0A#8, 0x0B#8, 0x0C#8, 0x0D#8] → (parses r = true ↔ rest.take len = []))
    ∧ (type = 0x10#8 → (parses r = true ↔ (rest.take len).length = 16))
    ∧ (type = 0x11#8 → len ≤ 131136 →
        (parses r = true ↔ (rest.take len).length = 16 + 4096 * bytesToNat (((rest.take len).drop 8).take 2))) ∧
    (∀ why, (131136 < len ∧ why = .length
          ∨ len ≤ 131136 ∧ len + 4 ≤ rest.length ∧ why = .check ∧ bytesToNat ((rest.drop len).take 4) ≠
            (crc32 (type :: t1 :: t0 :: l3 :: l2 :: l1 :: l0 :: rest.take len)).toNat) →
      exec (.linkError bytes) s = exec (.linkError (type :: t1 :: t0 :: l3 :: l2 :: l1 :: l0 :: rest))
          (raiseNotice .linkError 255 (.linkError why type) (backToHunt s))
      ∧ (NoStart (type :: t1 :: t0 :: l3 :: l2 :: l1 :: l0 :: rest) →
      ∃ t, exec (.linkError bytes) s = .next t
        ∧ t = { s with link := t.link } ∧ owed t.link = owed s.link
        ∧ t.link.gathered = startOf (type :: t1 :: t0 :: l3 :: l2 :: l1 :: l0 :: rest) ∧ t.link.hunting = .hunt ∧ t.link.held = s.link.held
        ∧ t.link.carried = s.link.carried ∧ t.link.resetCause = s.link.resetCause ∧ t.link.sent = s.link.sent
        ∧ (silenced s.plan.policy .linkError = false → Shown .linkError 255 (.linkError why type) t.link)))
    ∧ (len ≤ 131136 → rest.length < len + 4 → exec (.linkError bytes) s = .next { s with
        link := { s.link with
          gathered := 0xD2#8 :: 0x4B#8 :: type :: t1 :: t0 :: l3 :: l2 :: l1 :: l0 :: rest, hunting := .frame } })
    ∧ ∀ u behind, len ≤ 131136 → rest = rest.take (len + 4) ++ behind → len + 4 ≤ rest.length →
      bytesToNat ((rest.drop len).take 4) = (crc32 (type :: t1 :: t0 :: l3 :: l2 :: l1 :: l0 :: rest.take len)).toNat →
      u = dispatch (BitVec.ofNat 16 (bytesToNat [t1, t0])) r (backToHunt s) →
      (u.link.replies.length < 15 → behind = [] →
        exec (.linkError bytes) s = .next { u with link := { u.link with gathered := [], hunting := .hunt } })
      ∧ (u.link.replies.length < 15 → r ≠ .reset →
        exec (.linkError bytes) s = exec (.linkError behind) u)
      ∧ (r = .reset → exec (.linkError bytes) s = .next u ∧ u = State.afterReset .command s.pending)
      ∧ (15 ≤ u.link.replies.length → behind ≠ [] →
        exec (.linkError bytes) s = .next { u with link := { u.link with held := .bytes behind :: u.link.held } })

/-- When the sender has finished a record it begins the head reply; with no reply, the oldest URGENT notice; with none, the oldest ROUTINE
notice; with nothing, it is IDLE. A notice begun leaves the notice set; that a reply begun leaves the reply queue then is the model's
choice (log entry 12). Nothing but the sender's part changes. -/
def Obligations.SenderChoosesRepliesThenUrgentThenRoutine : Prop :=
  ∀ x s, s.link.sender = .sending x → ∃ t, exec .recordSent s = .next t ∧ t = { s with link := t.link }
    ∧ t.link = { s.link with sent := s.link.sent ++ [x], replies := t.link.replies, notices := t.link.notices, sender := t.link.sender }
    ∧ (∀ r rest, s.link.replies = r :: rest →
        t.link.sender = .sending (.reply r) ∧ t.link.replies = rest ∧ t.link.notices = s.link.notices)
    ∧ (s.link.replies = [] → t.link.replies = []
        ∧ (s.link.notices = [] → t.link.sender = .idle)
        ∧ (s.link.notices ≠ [] → ∃ n ∈ s.link.notices, t.link.sender = .sending (.notice n)
          ∧ t.link.notices = s.link.notices.erase n
          ∧ (noticeClass s.plan.policy n.kind = .routine → ∀ m ∈ s.link.notices, noticeClass s.plan.policy m.kind = .routine)
          ∧ ∀ m ∈ s.link.notices, noticeClass s.plan.policy m.kind = noticeClass s.plan.policy n.kind → n.order ≤ m.order))

/-! ## Locks, buffers and the extent table -/

/-- A release takes an operation from its entry's holders and serves the FIFO from its head: waiters are granted in order while each may
join the holders as they then stand, the rest waits on, each grant is handed to its operation, and an entry left with neither holder nor
waiter goes out of use. A withdrawal takes the operation's waiting request away, wherever it stands, or what service has granted it
already, and serves in the same way. Other entries stay. A release of buffers returns them and serves the foreground class from its head
while each request fits what is free, and with that class empty the lane class in the same way; a withdrawal of a lane's request does the
same without it. -/
def Obligations.LocksAndBuffersAreServedInOrder : Prop :=
  (∀ op stripe entry kept s, lockEntry? s.locks stripe = some entry → kept = entry.holders.filter (fun h => h.op ≠ op) →
      (∃ t granted rest, releaseLock op stripe s = t ∧ FifoServed kept entry.waiters granted rest
        ∧ lockEntry? t.locks stripe =
            (if kept ++ granted = [] ∧ rest = [] then none else some { stripe, holders := kept ++ granted, waiters := rest })
        ∧ (∀ other, other ≠ stripe → lockEntry? t.locks other = lockEntry? s.locks other)
        ∧ t.mail = { s.mail with grants := s.mail.grants ++ granted.map (·.op) }
        ∧ t = { s with locks := t.locks, mail := t.mail })
      ∧ ∃ t granted rest, withdrawLock op stripe s = t ∧ FifoServed kept (entry.waiters.filter fun w => w.op ≠ op) granted rest
        ∧ lockEntry? t.locks stripe =
            (if kept ++ granted = [] ∧ rest = [] then none else some { stripe, holders := kept ++ granted, waiters := rest })
        ∧ (∀ other, other ≠ stripe → lockEntry? t.locks other = lockEntry? s.locks other)
        ∧ t.mail = { s.mail with grants := (s.mail.grants ++ granted.map (·.op)).erase op }
        ∧ t = { s with locks := t.locks, mail := t.mail })
    ∧ (∀ op stripe s, lockEntry? s.locks stripe = none → releaseLock op stripe s = s ∧ withdrawLock op stripe s = s)
    ∧ ∀ t op lanes asked s, (t = releaseBuffers op s ∧ lanes = s.pool.laneWait ∧ asked = s.mail.reservations
          ∨ ∃ l, op = .lane l ∧ t = withdrawBuffers l s ∧ lanes = s.pool.laneWait.filter (fun r => r.op ≠ op)
            ∧ asked = s.mail.reservations.erase op) →
      ∃ fgNow laneNow, ∀ free, free = s.pool.free.length + (heldBy op s.pool).length →
        ClassServed free s.pool.fgWait fgNow t.pool.fgWait
        ∧ (t.pool.fgWait ≠ [] → laneNow = [] ∧ t.pool.laneWait = lanes)
        ∧ (t.pool.fgWait = [] → ClassServed (free - buffersAsked fgNow) lanes laneNow t.pool.laneWait)
        ∧ t.pool.free.length = free - buffersAsked fgNow - buffersAsked laneNow
        ∧ t.pool.held.map (fun h => (h.op, h.ids.length)) =
            (s.pool.held.filter fun h => h.op ≠ op).map (fun h => (h.op, h.ids.length))
              ++ (fgNow ++ laneNow).map (fun r => (r.op, r.count))
        ∧ t.mail = { s.mail with reservations := asked ++ (fgNow ++ laneNow).map (·.op) }
        ∧ t = { s with pool := t.pool, mail := t.mail }

/-- The class of an extent is that of the lowest-numbered enabled window it matches, and NORMAL without one. A stripe is rebuilt if its
extent is DONE, if it lies below the cursor of an ACTIVE or PARTIAL extent, or if it is in the ahead set; the foreground engine asks while
the spare is in use, and takes every stripe as rebuilt in COMPLETE and in HALTED with reason MEMBER-AFTER-COMPLETE and none in the other
states. An addition to the ahead set changes nothing while the spare is not in use, for a stripe that is rebuilt, or with 256 stripes
held; otherwise the stripe goes to its place in ascending order. -/
def Obligations.ExtentTableAnswers : Prop :=
  (∀ (ws : Vector Window 8) (x : Nat),
      (∀ i : Fin 8, Matches ws[i] x → (∀ j : Fin 8, j < i → ¬ Matches ws[j] x) → classOf ws x = ws[i].cls)
      ∧ ((∀ i : Fin 8, ¬ Matches ws[i] x) → classOf ws x = .normal))
    ∧ (∀ g t stripe, isRebuilt g t stripe = true ↔ Rebuilt g t stripe)
    ∧ (∀ g stripe s,
        (s.session.state ∈ [.complete, .halted .memberAfterComplete] → rebuiltAnswer g stripe s = true)
        ∧ (SpareUsed s.session.state → (rebuiltAnswer g stripe s = true ↔ Rebuilt g s.table stripe))
        ∧ (s.session.state ∈ [.idle, .starting, .restoring, .draining, .halted .secondMember, .targetFailed] →
            rebuiltAnswer g stripe s = false))
    ∧ ∀ g stripe s,
        (¬ SpareUsed s.session.state ∨ Rebuilt g s.table stripe ∨ 256 ≤ s.table.ahead.length → addAhead g stripe s = s)
        ∧ (SpareUsed s.session.state → ¬ Rebuilt g s.table stripe → s.table.ahead.length < 256 →
            ∃ ahead, addAhead g stripe s = { s with table := { s.table with ahead } }
              ∧ (∀ n, n ∈ ahead ↔ n = stripe ∨ n ∈ s.table.ahead)
              ∧ (s.table.ahead.Pairwise (· < ·) → ahead.Pairwise (· < ·)))

/-! ## Foreground requests -/

/-- READ-BLOCKS and WRITE-BLOCKS are refused in order: STATE in IDLE, STARTING, RESTORING and DRAINING, RANGE for a count outside 1..32,
RANGE for a run beyond the array, SPAN for a run over two stripes, QUEUE-FULL with 32 requests in the queue. A refused request changes
nothing but the replies. -/
def Obligations.ForegroundRequestsAreRefusedInOrder : Prop :=
  ∀ c tag type lba count s,
    ((∃ f : RunFields, c = .readBlocks tag (some f) ∧ type = 0x10 ∧ lba = f.lba.toNat ∧ count = f.count.toNat)
      ∨ ∃ f : WriteFields, c = .writeBlocks tag (some f) ∧ f.whole = true ∧ type = 0x11 ∧ lba = f.lba.toNat ∧ count = f.count.toNat) →
    Passes tag s →
    (s.session.state ∈ [.idle, .starting, .restoring, .draining] →
      exec c s = .next (handReply (refusal tag type .state) (backToHunt s)))
    ∧ ∀ g, s.session.state ∉ [.idle, .starting, .restoring, .draining] → s.plan.array = some g →
      (¬ (1 ≤ count ∧ count ≤ 32) → exec c s = .next (handReply (refusal tag type (.range 2)) (backToHunt s)))
      ∧ (1 ≤ count → count ≤ 32 → capacity g < lba + count →
          exec c s = .next (handReply (refusal tag type (.range 1)) (backToHunt s)))
      ∧ (1 ≤ count → count ≤ 32 → lba + count ≤ capacity g → lba / stripeData g ≠ (lba + count - 1) / stripeData g →
          exec c s = .next (handReply (refusal tag type .span) (backToHunt s)))
      ∧ (1 ≤ count → count ≤ 32 → lba + count ≤ capacity g → lba / stripeData g = (lba + count - 1) / stripeData g →
          32 ≤ s.queue.length → exec c s = .next (handReply (refusal tag type .queueFull) (backToHunt s)))

/-- A READ-BLOCKS or WRITE-BLOCKS that passes its checks joins the queue and asks for its stripe's lock, SHARED for a read and EXCLUSIVE
for a write. Granted at once on a stripe without an entry, or beside holders it may join and no waiter, it asks for one buffer for each
slot and waits for the answer; which free buffers it is given is the model's choice (log entry 5). Behind another holder that excludes it,
or behind a waiter, it waits for the lock. It is not answered yet, and only the queue, the locks, the pool, the monitors and the
handed-over grants and reservations change. -/
def Obligations.ForegroundRequestsJoinTheQueue : Prop :=
  ∀ c tag write lba count blocks mode g s,
    ((∃ f : RunFields, c = .readBlocks tag (some f) ∧ write = false ∧ lba = f.lba.toNat ∧ count = f.count.toNat ∧ blocks = []
        ∧ mode = .shared)
      ∨ ∃ f : WriteFields, c = .writeBlocks tag (some f) ∧ f.whole = true ∧ write = true ∧ lba = f.lba.toNat ∧ count = f.count.toNat
        ∧ blocks = f.blocks ∧ mode = .exclusive) →
    Passes tag s → s.session.state ∉ [.idle, .starting, .restoring, .draining] → s.plan.array = some g → 1 ≤ count → count ≤ 32 →
    lba + count ≤ capacity g → lba / stripeData g = (lba + count - 1) / stripeData g → s.queue.length < 32 →
    ∃ t e, exec c s = .next t ∧ t.queue = s.queue ++ [e] ∧ owed t.link = owed s.link
      ∧ e.tag = tag ∧ e.write = write ∧ e.lba = lba ∧ e.count = count ∧ e.blocks = blocks ∧ e.stripe = lba / stripeData g
      ∧ (e.fullStripe = true ↔ write = true ∧ lba % stripeData g = 0 ∧ count = stripeData g) ∧ e.arrival = s.now
      ∧ e.reconstructed = false ∧ e.unrecoverable = none
      ∧ (∀ holders, (lockEntry? s.locks e.stripe = none ∧ holders = []
              ∨ lockEntry? s.locks e.stripe = some { stripe := e.stripe, holders, waiters := [] } ∧ MayJoin mode holders) →
          lockEntry? t.locks e.stripe = some { stripe := e.stripe, holders := holders ++ [{ op := .fg tag, mode }], waiters := [] }
          ∧ e.stage = .bufferWait
          ∧ (s.pool.fgWait = [] → g.members ≤ s.pool.free.length →
              t.pool.free = s.pool.free.drop g.members
              ∧ t.pool.held = s.pool.held ++ [{ op := .fg tag, ids := s.pool.free.take g.members }]
              ∧ t.mail = { (raiseEvent .fgArrived none s).mail with
                  reservations := (raiseEvent .fgArrived none s).mail.reservations ++ [.fg tag] }
              ∧ t.monitors = (raiseEvent .fgArrived none s).monitors)
          ∧ (s.pool.fgWait ≠ [] ∨ s.pool.free.length < g.members →
              t.pool = { s.pool with fgWait := s.pool.fgWait ++ [{ op := .fg tag, count := g.members }] }
              ∧ t.monitors = (raiseEvent .bufferWait none (raiseEvent .fgArrived none s)).monitors))
      ∧ (∀ entry, lockEntry? s.locks e.stripe = some entry →
          entry.waiters ≠ [] ∨ ¬ MayJoin mode entry.holders →
          e.stage = .lockWait ∧ t.pool = s.pool
          ∧ lockEntry? t.locks e.stripe = some { entry with waiters := entry.waiters ++ [{ op := .fg tag, mode }] }
          ∧ t.monitors = (raiseEvent .fgLockWait none (raiseEvent .fgArrived none s)).monitors)
      ∧ (∀ other, other ≠ e.stripe → lockEntry? t.locks other = lockEntry? s.locks other)
      ∧ t.now = s.now ∧ t.plan = s.plan ∧ t.session = s.session ∧ t.table = s.table ∧ t.lanes = s.lanes ∧ t.governor = s.governor
      ∧ t.chans = s.chans ∧ t.stripSent = s.stripSent ∧ t.losses = s.losses ∧ t.writer = s.writer

/-- A slot is present if the channel that serves it is ONLINE: the mapped channel for a surviving slot, the spare channel for the failed
slot of a rebuilt stripe. A planning judges the rebuilt answer, the missing slots and the stripe's loss record. A touched block is
unrecoverable at once if it is a lost block on a rebuilt stripe, or if its slot and another are missing; one to be reconstructed, if
another slot is missing or has a lost block there. A read phase reads the span of the positions asked of each present slot: its own
touched ones and those of missing strips, or in a reconstruction phase those wanted on other slots and not yet obtained. A write phase
writes the strips to be written to the present slots, and the failed slot's strip to the spare where it is in use, ONLINE and not yet the
slot's member. -/
def Obligations.PhasesArePlanned : Prop :=
  (∀ g rebuilt s j c, presentChan g rebuilt s j = some c ↔ Serves g rebuilt j c ∧ s.chans[c].failed = false)
    ∧ (∀ g stripe s, (judgePhase g stripe s).rebuilt = rebuiltAnswer g stripe s
        ∧ (∀ j, j ∈ (judgePhase g stripe s).missing ↔ j < g.members ∧ Missing g (rebuiltAnswer g stripe s) s j)
        ∧ ((∀ r ∈ s.losses, r.stripe ≠ stripe) → (judgePhase g stripe s).lost = none)
        ∧ ∀ r ∈ s.losses, r.stripe = stripe → (s.losses.map (·.stripe)).Nodup →
            (judgePhase g stripe s).lost = some (r.first, r.count))
    ∧ (∀ g p j k, lostAtPlanning g p j k = true ↔
        p.rebuilt = true ∧ j = g.failedSlot ∧ Covered p.lost k ∨ j ∈ p.missing ∧ ∃ i ∈ p.missing, i ≠ j)
    ∧ (∀ g p j k, unsuppliable g p j k = true ↔
        ∃ i < g.members, i ≠ j ∧ (i ∈ p.missing ∨ p.rebuilt = true ∧ i = g.failedSlot ∧ Covered p.lost k))
    ∧ (∀ g p e j k, k ∈ suppliedPositions g p e j ↔ ∃ q ∈ runPlaces g e.lba e.count, q.2.2 = k ∧ (q.2.1 = j ∨ q.2.1 ∈ p.missing))
    ∧ (∀ wanted e i k, k ∈ wantedPositions wanted e i ↔ (∃ j, j ≠ i ∧ (j, k) ∈ wanted) ∧ blockAt e.bufs i k = none)
    ∧ (∀ g p s positions, ReadsSpans g p.rebuilt s positions (readCmds g p s positions))
    ∧ ∀ g p s changed, WritesStrips g p.rebuilt s (fun j => changed j = true) (writeCmds g p s changed)

/-- A foreground operation takes the ending of its read on a channel. An ending other than GOOD with attempts left on an ONLINE channel is
handed over again in the foreground class, with one attempt more and MEMBER-RETRY. Any other is the last: GOOD lays its blocks into the
slot's buffer, MEDIUM those outside its bad range, with the outcome PARTIAL, and the rest none; a block that the operation holds and the
attempt does not yield stays (log entry 40), and a block computed before stays as it is (log entry 35), which are the model's choices.
While another command of the phase is outstanding nothing else happens. -/
def Obligations.ForegroundReadEndings : Prop :=
  ∀ tag c s g e q x u, s.plan.array = some g → fgEntry tag s = some e → outstandingOn e.plan c = some q →
    takeEnding (.fg tag) false (some c) s = some (x, u) →
    ((x.status = .rejected ∨ x.status = .timeout ∨ ∃ first count bs, x.status = .medium first count bs) →
      q.attempts ≤ s.plan.policy.retryLimit → s.chans[c].failed = false →
      ∃ t, exec (.fgReadCompletion tag c) s = .next t
        ∧ fgEntry tag t = some { e with plan := setCmd { q with attempts := q.attempts + 1 } e.plan }
        ∧ t.chans[c] = { s.chans[c] with fgPending := s.chans[c].fgPending ++ [fgStrip g e q false] }
        ∧ t.monitors = (raiseEvent .memberRetry (some c) s).monitors ∧ owed t.link = owed s.link
        ∧ t.locks = s.locks ∧ t.pool = s.pool ∧ t.losses = s.losses ∧ t.table = s.table ∧ t.mail.endings = u.mail.endings)
    ∧ (∀ f, ReadEnds s q e x.status f → (∃ r ∈ f.plan.cmds, r.outcome = .outstanding) →
      ∃ t, exec (.fgReadCompletion tag c) s = .next t ∧ fgEntry tag t = some f ∧ t = { u with queue := t.queue }
        ∧ t.queue.map (·.tag) = s.queue.map (·.tag))
    ∧ (∀ (bs : List Block) f, f = storeBlocks q (bs.map some) e → ∀ j k, blockAt f.bufs j k =
        if j = q.slot ∧ q.first ≤ k ∧ k < q.first + bs.length ∧ k < ((e.bufs[j]?).getD []).length ∧ (j, k) ∉ e.computed
        then bs[k - q.first]? else blockAt e.bufs j k)
    ∧ (∀ first count (bs : List Block) f, f = storeBlocks q (spread q.count first count bs) e → first + count ≤ q.count →
        bs.length = q.count - count → ∀ j k, blockAt f.bufs j k =
        if j = q.slot ∧ q.first ≤ k ∧ k < q.first + q.count ∧ ¬ (q.first + first ≤ k ∧ k < q.first + first + count)
            ∧ k < ((e.bufs[j]?).getD []).length ∧ (j, k) ∉ e.computed
        then (if k < q.first + first then bs[k - q.first]? else bs[k - q.first - count]?) else blockAt e.bufs j k)
    ∧ ∀ t, exec (.fgReadCompletion tag c) s = .next t →
        t.now = s.now ∧ t.plan = s.plan ∧ t.session = s.session ∧ t.table = s.table ∧ t.lanes = s.lanes ∧ t.governor = s.governor
        ∧ t.stripSent = s.stripSent ∧ t.writer = s.writer ∧ (∀ f ∈ s.queue, f.tag ≠ tag → f ∈ t.queue)

/-- A phase of a READ-BLOCKS ends with its last command. A block obtained by then is ready, a spare's copy that a loss record covers by
then excepted; when that is judged is the model's choice (log entry 35), and so is that a block obtained earlier which a later read's last
attempt does not yield stays obtained (log entry 40). At the end of the read phase a block of a strip missing at planning is the XOR of
the other slots' blocks, or unrecoverable; a block not obtained on a slot that was read is to be reconstructed in a phase planned afresh,
unless that planning finds one unrecoverable. That this phase ends at once, with no command, where the buffers hold all it needs is the
model's choice (log entry 23). At the end of the reconstruction phase each such block is the XOR of the others, or unrecoverable, and so
is what is no longer obtained. With a block unrecoverable the read answers LOST-DATA with the lowest such LBA, else DONE with the blocks
in LBA order; the entry, the lock and the buffers go. FG-RECONSTRUCT is raised if a block was computed for the read, in this phase or
before, and FG-LATE if its time since arrival exceeds the latency budget. -/
def Obligations.ReadsEndWithTheirPhases : Prop :=
  ∀ tag c s g e q x u f held places, s.plan.array = some g → fgEntry tag s = some e → outstandingOn e.plan c = some q →
    takeEnding (.fg tag) false (some c) s = some (x, u) → ReadEnds s q e x.status f → e.write = false → e.unrecoverable = none →
    (∀ r ∈ f.plan.cmds, r.outcome ≠ .outstanding) → BufsFit g f → RunFits g e → arrayField g = none → commitCheck g = none →
    held = obtained g s.losses f → places = runPlaces g e.lba e.count →
    ∃ t, exec (.fgReadCompletion tag c) s = .next t ∧ t.losses = s.losses ∧ t.table = s.table
      ∧ (e.stage = .readPhase → ∀ computed : Prop,
          (computed ↔ e.reconstructed = true ∨ ∃ p ∈ places, p.2.1 ∈ e.plan.missing ∧ ¬ NoXor g held p.2.1 p.2.2) →
        (∀ p ∈ places, p.2.1 ∈ e.plan.missing → NoXor g held p.2.1 p.2.2 →
          (∀ b ∈ places, b.2.1 ∈ e.plan.missing → NoXor g held b.2.1 b.2.2 → p.1 ≤ b.1) →
          OperationEnds e computed (.lostData p.1) .none s t)
        ∧ ((∀ p ∈ places, p.2.1 ∈ e.plan.missing → ¬ NoXor g held p.2.1 p.2.2) →
          ∀ (full : Nat → Nat → Option Block) (wanted : Nat × Nat × Nat → Prop),
            (∀ j k, (j ∈ e.plan.missing ∧ ∃ a, (a, j, k) ∈ places) → ∀ b, IsXor g held j k b → full j k = some b) →
            (∀ j k, ¬ (j ∈ e.plan.missing ∧ ∃ a, (a, j, k) ∈ places) → full j k = held j k) →
            (∀ p, wanted p ↔ p.2.1 ∉ e.plan.missing ∧ held p.2.1 p.2.2 = none) →
          (∀ p ∈ places, wanted p → unsuppliable g (judgePhase g e.stripe s) p.2.1 p.2.2 = true →
            (∀ b ∈ places, wanted b → unsuppliable g (judgePhase g e.stripe s) b.2.1 b.2.2 = true → p.1 ≤ b.1) →
            OperationEnds e computed (.lostData p.1) .none s t)
          ∧ ((∀ p ∈ places, wanted p → unsuppliable g (judgePhase g e.stripe s) p.2.1 p.2.2 = false) →
            ((∀ p ∈ places, wanted p → ¬ NoXor g full p.2.1 p.2.2) →
              ∃ out, OperationEnds e (computed ∨ ∃ p ∈ places, wanted p) .done (.blocks out) s t ∧ out.length = e.count
                ∧ ∀ (i : Nat) p b, places[i]? = some p →
                  (wanted p ∧ IsXor g full p.2.1 p.2.2 b ∨ ¬ wanted p ∧ full p.2.1 p.2.2 = some b) → out[i]? = some b)
            ∧ ((∃ p ∈ places, wanted p ∧ NoXor g full p.2.1 p.2.2) →
              ∃ r, fgEntry tag t = some r ∧ owed t.link = owed s.link ∧ r.stage = .reconstructPhase
                ∧ (r.reconstructed = true ↔ computed)
                ∧ (∀ j k, (j, k) ∈ r.plan.wanted ↔ ∃ p ∈ places, wanted p ∧ (p.2.1, p.2.2) = (j, k))
                ∧ ReadsSpans g (rebuiltAnswer g e.stripe s) s (wantedPositions r.plan.wanted r) r.plan.cmds
                ∧ (∀ j k, blockAt r.bufs j k = full j k) ∧ HandedOver g r false s t))))
      ∧ (e.stage = .reconstructPhase → ∀ (bad : Nat × Nat × Nat → Prop) (computed : Prop),
          (computed ↔ e.reconstructed = true ∨ ∃ q ∈ e.plan.wanted, ¬ NoXor g held q.1 q.2) →
          (∀ p, bad p ↔ (p.2.1, p.2.2) ∈ e.plan.wanted ∧ NoXor g held p.2.1 p.2.2
            ∨ (p.2.1, p.2.2) ∉ e.plan.wanted ∧ held p.2.1 p.2.2 = none) →
        (∀ p ∈ places, bad p → (∀ b ∈ places, bad b → p.1 ≤ b.1) → OperationEnds e computed (.lostData p.1) .none s t)
        ∧ ((∀ p ∈ places, ¬ bad p) → ∃ out, OperationEnds e computed .done (.blocks out) s t ∧ out.length = e.count
          ∧ ∀ (i : Nat) p b, places[i]? = some p →
            ((p.2.1, p.2.2) ∈ e.plan.wanted ∧ IsXor g held p.2.1 p.2.2 b
              ∨ (p.2.1, p.2.2) ∉ e.plan.wanted ∧ held p.2.1 p.2.2 = some b) →
            out[i]? = some b))

/-- The read phase of a partial write ends with its last command. It is refused ARRAY-HALTED in HALTED or with two slots missing by a
fresh planning; answered UNRECOVERABLE if a block of the stripe was neither obtained nor is the XOR of the others at its position; and
else goes to its write phase: each strip completed, the new blocks merged in, the parity strip the XOR of the data strips, and the parity
strip and each touched strip, and the failed slot's strip to a spare in use, written whole. A spare's copy that a loss record covers
counts as not obtained (log entry 35). Where the write ends, FG-RECONSTRUCT is raised if a block was computed for it, and FG-LATE if its
time since arrival exceeds the latency budget. -/
def Obligations.PartialWritesReadThenWrite : Prop :=
  ∀ tag c s g e q x u f held places, s.plan.array = some g → fgEntry tag s = some e → outstandingOn e.plan c = some q →
    takeEnding (.fg tag) false (some c) s = some (x, u) → ReadEnds s q e x.status f → e.write = true →
    (∀ r ∈ f.plan.cmds, r.outcome ≠ .outstanding) → BufsFit g f → RunFits g e → e.blocks.length = e.count →
    arrayField g = none → commitCheck g = none → held = obtained g s.losses f → places = runPlaces g e.lba e.count →
    ∃ t computed, exec (.fgReadCompletion tag c) s = .next t
      ∧ (computed ↔ e.reconstructed = true ∨ ∃ j k, j < g.members ∧ k < stripBlocks g ∧ held j k = none ∧ ¬ NoXor g held j k)
      ∧ (isHalted s.session.state = true ∨ 2 ≤ (judgePhase g e.stripe s).missing.length →
        OperationEnds e computed (.refused .arrayHalted) .none s t)
      ∧ (isHalted s.session.state = false → (judgePhase g e.stripe s).missing.length < 2 →
        ((∃ j k, j < g.members ∧ k < stripBlocks g ∧ held j k = none ∧ NoXor g held j k) →
          OperationEnds e computed .unrecoverable .none s t)
        ∧ ((∀ j k, j < g.members → k < stripBlocks g → held j k = none → ¬ NoXor g held j k) →
          ∃ r parity, fgEntry tag t = some r ∧ owed t.link = owed s.link ∧ r.stage = .writePhase ∧ (r.reconstructed = true ↔ computed)
            ∧ parity = (g.members - 1) - e.stripe % g.members
            ∧ WritesStrips g (rebuiltAnswer g e.stripe s) s (fun j => j = parity ∨ ∃ p ∈ places, p.2.1 = j) r.plan.cmds
            ∧ (∀ (i : Nat) p b, places[i]? = some p → e.blocks[i]? = some b → blockAt r.bufs p.2.1 p.2.2 = some b)
            ∧ (∀ j k b, j < g.members → k < stripBlocks g → j ≠ parity → (∀ p ∈ places, (p.2.1, p.2.2) ≠ (j, k)) →
                (held j k = some b ∨ held j k = none ∧ IsXor g held j k b) → blockAt r.bufs j k = some b)
            ∧ (∀ k b, k < stripBlocks g → IsXor g (blockAt r.bufs) parity k b → blockAt r.bufs parity k = some b)
            ∧ HandedOver g r true s t))

/-- A foreground write takes the ending of its write on a channel. A GOOD ending of the spare write, on a stripe that was not rebuilt at
planning, asks for the stripe's place in the ahead set; an ending other than GOOD leaves the channel FAILED. When the last ends, the write
is answered: DONE if every write but the spare's was GOOD, else WRITE-INCOMPLETE; a full-stripe write answered DONE clears the stripe's
loss record, which LOSS-CLEARED tells. The entry is gone, its lock and its buffers are released, FG-RECONSTRUCT is raised if a block was
computed for the write, and FG-LATE if its time since arrival exceeds the latency budget. Which write is the spare's is what its planning
found, whatever the channel's role is by then, which is the model's choice (log entry 17). -/
def Obligations.ForegroundWriteEndings : Prop :=
  ∀ tag c s g e q x u, s.plan.array = some g → fgEntry tag s = some e → outstandingOn e.plan c = some q →
    takeEnding (.fg tag) true (some c) s = some (x, u) → e.write = true →
    ∃ t p, exec (.fgWriteCompletion tag c) s = .next t
      ∧ p = setCmd { q with outcome := if isGood x.status then .good else .failed } e.plan
      ∧ (isGood x.status = true → q.spare = true → e.plan.rebuilt = false → t.table = (addAhead g e.stripe s).table)
      ∧ (isGood x.status = false ∨ q.spare = false ∨ e.plan.rebuilt = true → t.table = s.table)
      ∧ (isGood x.status = true → t.chans = s.chans) ∧ (isGood x.status = false → t.chans[c].failed = true)
      ∧ ((∃ r ∈ p.cmds, r.outcome = .outstanding) →
          fgEntry tag t = some { e with plan := p } ∧ owed t.link = owed s.link ∧ t.losses = s.losses ∧ t.locks = s.locks
          ∧ t.monitors = s.monitors ∧ (isGood x.status = true → t.pool = s.pool))
      ∧ ((∀ r ∈ p.cmds, r.outcome ≠ .outstanding) →
          t.queue = s.queue.filter (fun f => f.tag ≠ tag) ∧ t.locks = (releaseLock (.fg tag) e.stripe s).locks
          ∧ (isGood x.status = true → t.pool = (releaseBuffers (.fg tag) s).pool)
          ∧ (isGood x.status = false → (∀ w ∈ s.pool.fgWait ++ s.pool.laneWait, w.op ≠ .fg tag) → ∀ h ∈ t.pool.held, h.op ≠ .fg tag)
          ∧ EndEvents e (e.reconstructed = true) s t
          ∧ ((∀ r ∈ p.cmds, r.spare = false → r.outcome = .good) →
            owed t.link = owed s.link ++ [done tag 0x11 .none]
            ∧ t.losses = (if e.fullStripe then s.losses.filter (fun r => r.stripe ≠ e.stripe) else s.losses)
            ∧ (e.fullStripe = true → (∃ r ∈ s.losses, r.stripe = e.stripe) → silenced s.plan.policy .lossCleared = false →
                Shown .lossCleared 255 (.stripe e.stripe) t.link))
          ∧ ((∃ r ∈ p.cmds, r.spare = false ∧ r.outcome ≠ .good) →
            owed t.link = owed s.link ++ [{ tag, type := 0x11, answer := .writeIncomplete, result := .none }] ∧ t.losses = s.losses))
      ∧ t.now = s.now ∧ t.plan = s.plan ∧ t.session = s.session ∧ t.lanes = s.lanes ∧ t.governor = s.governor
      ∧ t.stripSent = s.stripSent ∧ t.writer = s.writer

/-! ## The strip links -/

/-- A completion whose number is not in the issue list is discarded and raises LATE-COMPLETION with its number and status; if it is
LINK-DOWN it is taken as a link-down as well; that it answers no channel-reset indication is the model's choice (log entry 27). One of an
issued command takes it from the issue list, is judged, lets the channel issue again, and hands the command's ending to its issuer last.
GOOD changes no error count. A read's REJECTED raises the error count, saturating at 255, and past the error limit the channel is FAILED.
A write's, or its MEDIUM, leaves the channel FAILED with its error count unchanged. A GOOD read whose data do not hold its blocks is
REJECTED. A MEDIUM range that leaves the command counts as the whole range. That this is judged before the data, and that a surplus of
blocks is REJECTED like a lack, is the model's choice (log entry 19). An orphan's ending is judged in the same way and handed to nobody.
-/
def Obligations.CompletionsReachTheirIssuer : Prop :=
  (∀ c number status s, (∀ i ∈ s.chans[c].issued, i.number ≠ number) →
    (status ≠ .linkDown → exec (.stripCompletion c number status) s =
      .next (raiseNotice .lateCompletion c.val (.lateCompletion number (stripName status)) s))
    ∧ (status = .linkDown → ∃ t, exec (.stripCompletion c number status) s = .next t
      ∧ t.chans[c].linkPresent = false ∧ t.chans[c].errors = s.chans[c].errors ∧ t.chans[c].resetAwaited = s.chans[c].resetAwaited
      ∧ (s.chans[c].role ≠ .unused → t.chans[c].failed = true)
      ∧ (s.chans[c].role = .unused → t.chans[c].failed = s.chans[c].failed)
      ∧ (silenced s.plan.policy .lateCompletion = false →
          Shown .lateCompletion c.val (.lateCompletion number .linkDown) t.link)))
    ∧ (∀ c i status s, i ∈ s.chans[c].issued → (s.chans[c].issued.map (·.number)).Nodup → (∀ l, i.cmd.issuer ≠ .orphan l) →
    ∃ t end_, exec (.stripCompletion c i.number status) s = .next t
      ∧ t.mail.endings.getLast? = some { chan := c, cmd := i.cmd, status := end_ }
      ∧ (∀ k ∈ t.chans[c].issued, k ∈ s.chans[c].issued.erase i ∨ k.cmd ∈ s.chans[c].fgPending ++ s.chans[c].rebuildPending)
      ∧ (∀ bs, status = .good bs → i.cmd.write = true ∨ bs.length = i.cmd.count →
          end_ = .good bs ∧ t.chans[c].errors = s.chans[c].errors ∧ t.chans[c].failed = s.chans[c].failed)
      ∧ (status = .linkDown → end_ = .memberFailed ∧ t.chans[c].linkPresent = false
          ∧ (s.chans[c].role ≠ .unused → t.chans[c].failed = true))
      ∧ (status = .rejected ∨ (∃ bs, status = .good bs ∧ bs.length ≠ i.cmd.count) → i.cmd.write = false → end_ = .rejected
          ∧ t.chans[c].errors = min 255 (s.chans[c].errors + 1)
          ∧ (t.chans[c].failed = true ↔ s.chans[c].failed = true ∨ s.plan.policy.errorLimit < min 255 (s.chans[c].errors + 1))
          ∧ (silenced s.plan.policy .memberError = false →
              Shown .memberError c.val (.memberError .rejected (min 255 (s.chans[c].errors + 1))) t.link))
      ∧ (status = .rejected → i.cmd.write = true →
          end_ = .rejected ∧ t.chans[c].errors = s.chans[c].errors ∧ t.chans[c].failed = true)
      ∧ (∀ first n bs, status = .medium first n bs →
          (i.cmd.write = false → t.chans[c].errors = min 255 (s.chans[c].errors + 1))
          ∧ (i.cmd.write = true → t.chans[c].errors = s.chans[c].errors ∧ t.chans[c].failed = true)
          ∧ (n = 0 ∨ first < i.cmd.block ∨ i.cmd.block + i.cmd.count < first + n → end_ = .medium 0 i.cmd.count [])
          ∧ (1 ≤ n → i.cmd.block ≤ first → first + n ≤ i.cmd.block + i.cmd.count →
              end_ = if i.cmd.write = true ∨ bs.length = i.cmd.count - n then .medium (first - i.cmd.block) n bs else .rejected))
      ∧ (∀ k : Chan, k ≠ c → t.chans[k] = s.chans[k])
      ∧ t.now = s.now ∧ t.plan = s.plan ∧ t.session = s.session ∧ t.table = s.table ∧ t.lanes = s.lanes ∧ t.governor = s.governor
      ∧ t.locks = s.locks ∧ t.queue = s.queue ∧ t.losses = s.losses ∧ t.writer = s.writer ∧ t.monitors = s.monitors)
    ∧ ∀ c i l status s, i ∈ s.chans[c].issued → (s.chans[c].issued.map (·.number)).Nodup → i.cmd.issuer = .orphan l →
      ∃ t, exec (.stripCompletion c i.number status) s = .next t
        ∧ (∀ e ∈ t.mail.endings, e ∈ s.mail.endings ∨ e.status = .memberFailed ∧ t.chans[c].failed = true)
        ∧ (∀ bs, status = .good bs → i.cmd.write = true ∨ bs.length = i.cmd.count →
            t.mail.endings = s.mail.endings ∧ t.chans[c].errors = s.chans[c].errors ∧ t.chans[c].failed = s.chans[c].failed)
        ∧ (status = .rejected → i.cmd.write = false → t.chans[c].errors = min 255 (s.chans[c].errors + 1)
            ∧ (t.chans[c].failed = true ↔ s.chans[c].failed = true ∨ s.plan.policy.errorLimit < min 255 (s.chans[c].errors + 1)))
        ∧ (status = .rejected → i.cmd.write = true → t.chans[c].errors = s.chans[c].errors ∧ t.chans[c].failed = true)
        ∧ (orphansOf l t = 0 → s.pool.fgWait = [] → s.pool.laneWait = [] → ∀ h ∈ t.pool.held, h.op ≠ .lane l)

/-- A link-down indication sets link present to no and answers an awaited reset indication. On an ONLINE channel with a role it declares
the channel FAILED: nothing stays issued or pending, every command but an orphan ends with MEMBER-FAILED in order, MEMBER-FAILED tells the
cause LINK, and the session controller is told with the role. A link-up indication sets link present to yes and answers an awaited reset
indication; a FAILED condition stays. Unless commands wait on a channel whose reset answer it is, nothing else changes. -/
def Obligations.LinkIndicationsAreTaken : Prop :=
  (∀ (c : Chan) s,
    (s.chans[c].role = .unused ∨ s.chans[c].failed = true → exec (.linkDown c) s =
      .next { s with chans := s.chans.set c { s.chans[c] with linkPresent := false, resetAwaited := false } })
    ∧ (s.chans[c].role ≠ .unused → s.chans[c].failed = false → ∃ t, exec (.linkDown c) s = .next t
      ∧ t.chans = s.chans.set c { s.chans[c] with
          linkPresent := false, resetAwaited := false, failed := true, issued := [], fgPending := [], rebuildPending := [] }
      ∧ t.mail.endings = s.mail.endings ++
          ((s.chans[c].issued.map (·.cmd) ++ s.chans[c].fgPending ++ s.chans[c].rebuildPending).filter
            (fun m => match m.issuer with | .orphan _ => false | _ => true)).map
            (fun m => { chan := c, cmd := m, status := .memberFailed })
      ∧ t.mail.told = s.mail.told ++ [{ chan := c, role := s.chans[c].role }]
      ∧ (silenced s.plan.policy .memberFailed = false → Shown .memberFailed c.val (.failCause .link) t.link)
      ∧ owed t.link = owed s.link
      ∧ t.now = s.now ∧ t.plan = s.plan ∧ t.session = s.session ∧ t.table = s.table ∧ t.lanes = s.lanes ∧ t.governor = s.governor
      ∧ t.locks = s.locks ∧ t.queue = s.queue ∧ t.stripSent = s.stripSent ∧ t.losses = s.losses ∧ t.writer = s.writer
      ∧ t.monitors = s.monitors))
    ∧ (∀ (c : Chan) s, ∃ t, exec (.linkUp c) s = .next t
    ∧ t.chans[c].linkPresent = true ∧ t.chans[c].resetAwaited = false ∧ t.chans[c].failed = s.chans[c].failed
    ∧ t.chans[c].role = s.chans[c].role ∧ t.chans[c].errors = s.chans[c].errors
    ∧ (s.chans[c].resetAwaited = false ∨ s.chans[c].fgPending = [] ∧ s.chans[c].rebuildPending = [] →
        t = { s with chans := s.chans.set c { s.chans[c] with linkPresent := true, resetAwaited := false } })
    ∧ (∀ k : Chan, k ≠ c → t.chans[k] = s.chans[k]) ∧ t = { s with chans := t.chans, stripSent := t.stripSent })

/-- The expiry of an issued command's timer takes the command from the issue list, raises MEMBER-TIMEOUT, is judged as an ending with
TIMEOUT, and hands that ending to the issuer last, or, of an orphan, to nobody. The clock stands at the expiry, if it was not past it (log
entry 7). A command that is not issued has no timer; that its expiry then changes nothing is the model's choice (log entry 1). -/
def Obligations.CommandTimersEndTheirCommands : Prop :=
  ∀ c number s,
    ((∀ i ∈ s.chans[c].issued, i.number ≠ number) → exec (.commandTimeout c number) s = .next s)
    ∧ ∀ i, i ∈ s.chans[c].issued → i.number = number → (s.chans[c].issued.map (·.number)).Nodup →
      ∃ t, exec (.commandTimeout c number) s = .next t ∧ t.now = max s.now i.expiry
        ∧ ((∀ l, i.cmd.issuer ≠ .orphan l) → t.mail.endings.getLast? = some { chan := c, cmd := i.cmd, status := .timeout })
        ∧ (∀ l, i.cmd.issuer = .orphan l →
            (∀ e ∈ t.mail.endings, e ∈ s.mail.endings ∨ e.status = .memberFailed ∧ t.chans[c].failed = true)
            ∧ (orphansOf l t = 0 → s.pool.fgWait = [] → s.pool.laneWait = [] → ∀ h ∈ t.pool.held, h.op ≠ .lane l))
        ∧ t.monitors = (raiseEvent .memberTimeout (some c) s).monitors
        ∧ (i.cmd.write = false → t.chans[c].errors = min 255 (s.chans[c].errors + 1)
            ∧ (t.chans[c].failed = true ↔ s.chans[c].failed = true ∨ s.plan.policy.errorLimit < min 255 (s.chans[c].errors + 1)))
        ∧ (i.cmd.write = true → t.chans[c].errors = s.chans[c].errors ∧ t.chans[c].failed = true)
        ∧ (∀ k : Chan, k ≠ c → t.chans[k] = s.chans[k])
        ∧ t.plan = s.plan ∧ t.session = s.session ∧ t.table = s.table ∧ t.lanes = s.lanes ∧ t.governor = s.governor
        ∧ t.locks = s.locks ∧ t.queue = s.queue ∧ t.losses = s.losses ∧ t.writer = s.writer

/-- A channel that is ONLINE, with its link present, no reset answer awaited and fewer than four commands issued, issues the head of its
foreground class, or of its rebuild class when the foreground class is empty: the command takes the next number, joins the issue list with
a timer, and is sent. Any other channel issues nothing. -/
def Obligations.IssueSendsTheHeadCommand : Prop :=
  ∀ (c : Chan) s,
    (s.chans[c].failed = true ∨ s.chans[c].linkPresent = false ∨ s.chans[c].resetAwaited = true ∨ 4 ≤ s.chans[c].issued.length
        ∨ s.chans[c].fgPending = [] ∧ s.chans[c].rebuildPending = [] → exec (.commandIssue c) s = .next s)
    ∧ (s.chans[c].failed = false → s.chans[c].linkPresent = true → s.chans[c].resetAwaited = false → s.chans[c].issued.length < 4 →
      (∀ cmd rest, s.chans[c].fgPending = cmd :: rest → exec (.commandIssue c) s = .next { s with
        chans := s.chans.set c { s.chans[c] with
          fgPending := rest, next := s.chans[c].next + 1
          issued := s.chans[c].issued ++ [{ number := s.chans[c].next, cmd, expiry := s.now + s.plan.policy.timeoutMs }] }
        stripSent := s.stripSent ++ [(c, .command s.chans[c].next cmd)] })
      ∧ ∀ cmd rest, s.chans[c].fgPending = [] → s.chans[c].rebuildPending = cmd :: rest → exec (.commandIssue c) s = .next { s with
        chans := s.chans.set c { s.chans[c] with
          rebuildPending := rest, next := s.chans[c].next + 1
          issued := s.chans[c].issued ++ [{ number := s.chans[c].next, cmd, expiry := s.now + s.plan.policy.timeoutMs }] }
        stripSent := s.stripSent ++ [(c, .command s.chans[c].next cmd)] })

/-- The session controller takes a FAILED declaration. A survivor lost while the session is live gives HALTED with reason SECOND-MEMBER
and answers a START or PAUSE OVERTAKEN; the spare lost, in role TARGET, gives TARGET-FAILED and answers TARGET-LOST; either way every lane
parks, letting go of what it held or awaited if the lanes wait as their states say, and the writer is quieted; the spare lost ends its
write in flight, but that a write that ended GOOD before waits for its own taking is the model's choice (log entry 36). A member lost in
COMPLETE gives HALTED with reason MEMBER-AFTER-COMPLETE and nothing else; that the former spare lost counts as such, told with the role
TARGET, is the model's choice (log entry 16). In IDLE, RESTORING, DRAINING, HALTED and TARGET-FAILED the declaration changes nothing. -/
def Obligations.FailedChannelsChangeTheSession : Prop :=
  ∀ c s told rest, s.mail.told = { chan := c, role := told } :: rest →
    (s.session.state ∈ [.idle, .restoring, .draining, .halted .secondMember, .halted .memberAfterComplete, .targetFailed] →
      exec (.channelFailedTold c) s = .next { s with mail := { s.mail with told := rest } })
    ∧ (s.session.state = .complete → told ≠ .unused → exec (.channelFailedTold c) s = .next
        (setSession (.halted .memberAfterComplete) { s with mail := { s.mail with told := rest } }))
    ∧ ((s.session.state ∈ [.starting, .paused, .lossStop] ∨ (∃ closing, s.session.state = .running closing)
          ∨ ∃ cause, s.session.state = .pausing cause) →
      ∀ state answer, ((∃ j, told = .survivor j) ∧ state = .halted .secondMember ∧ answer = .overtaken
          ∨ told = .target ∧ state = .targetFailed ∧ answer = .targetLost) →
      ∃ t, exec (.channelFailedTold c) s = .next t ∧ t.session = { state, longOp := none }
        ∧ owed t.link = owed s.link ++ (s.session.longOp.toList.map fun op =>
            { tag := op.tag, type := longType op.kind, answer, result := .none })
        ∧ (silenced s.plan.policy .sessionState = false → Shown .sessionState 255 (.session state) t.link)
        ∧ (∀ l : Lane, t.lanes[l].state = .parked) ∧ t.writer.period = none ∧ t.writer.again = false
        ∧ (LanesWaitAsTheySay s → state = .targetFailed ∨ s.writer.next ≠ .exhausted → LetGo s t)
        ∧ (∀ w e u, state = .targetFailed → s.writer.state = .writing w → takeEnding .checkpoint true none s = some (e, u) →
            isGood e.status = false →
            t.writer = { s.writer with state := .idle, again := false, waiting := none, period := none }
            ∧ (takeEnding .checkpoint true none u = none → takeEnding .checkpoint true none t = none))
        ∧ (state = .targetFailed → ((∀ w, s.writer.state ≠ .writing w) ∨ takeEnding .checkpoint true none s = none
              ∨ ∃ e u, takeEnding .checkpoint true none s = some (e, u) ∧ isGood e.status = true) →
            t.writer = { s.writer with again := false, waiting := none, period := none })
        ∧ (∀ g w, state = .halted .secondMember → s.plan.array = some g → s.chans[spareChan g].failed = false →
            s.writer.state = .writing w → t.writer = { s.writer with again := false, waiting := some .halted, period := none })
        ∧ (∀ g n, state = .halted .secondMember → s.plan.array = some g → s.chans[spareChan g].failed = false →
            s.writer.state = .idle → s.writer.next = .seq n →
            t.writer.state = .writing { mark := .halted, sequence := n, slot := s.writer.slot })
        ∧ t.now = s.now ∧ t.plan = s.plan ∧ t.queue = s.queue ∧ t.stripSent = s.stripSent ∧ t.losses = s.losses
        ∧ t.monitors = s.monitors)

/-! ## The rebuild -/

/-- A lane's claim in RUNNING or PAUSING is given the first candidate by class, then PARTIAL before PENDING, then index, which becomes
ACTIVE under the lane at its cursor, 0 if it was PENDING. Without a candidate, or in another state, it is given none. After a claim in
RUNNING or PAUSING that finds no candidate the hold-waiting flag is evaluated, and HOLD-WAITING shown where that sets it. -/
def Obligations.ClaimsTakeTheFirstCandidate : Prop :=
  ∀ (l : Lane) s g, s.plan.array = some g → l ∈ s.mail.claims →
    (∀ (x : Nat) r cursor, (∃ closing, s.session.state = .running closing) ∨ (∃ cause, s.session.state = .pausing cause) →
      s.table.extents[x]? = some r → r.cls ≠ .hold → (r.state = .pending ∧ cursor = 0 ∨ r.state = .partDone cursor) →
      (∀ (y : Nat) q, s.table.extents[y]? = some q → q.isCandidate = true →
        classOrder r.cls < classOrder q.cls ∨ classOrder r.cls = classOrder q.cls ∧
          (r.state ≠ .pending ∧ q.state = .pending ∨ (r.state = .pending ↔ q.state = .pending) ∧ x ≤ y)) →
      exec (.claim l) s = .next { s with
        table := { s.table with extents := s.table.extents.set x { r with state := .active cursor l } }
        mail := { s.mail with
          claims := s.mail.claims.erase l, answers := s.mail.answers ++ [{ lane := l, given := some (x, cursor, extentLength g x) }] } })
    ∧ ((∀ q ∈ s.table.extents, q.isCandidate = false) ∨
        (∀ closing, s.session.state ≠ .running closing) ∧ (∀ cause, s.session.state ≠ .pausing cause) →
      ∃ t, exec (.claim l) s = .next t ∧ t.table.extents = s.table.extents ∧ t.table.ahead = s.table.ahead
        ∧ t.mail = { s.mail with claims := s.mail.claims.erase l, answers := s.mail.answers ++ [{ lane := l, given := none }] }
        ∧ t = { s with table := t.table, mail := t.mail, link := t.link } ∧ owed t.link = owed s.link
        ∧ ((∃ closing, s.session.state = .running closing) ∨ (∃ cause, s.session.state = .pausing cause) →
            HoldFlagEvaluated s.table.holdWaiting t)
        ∧ ((∀ closing, s.session.state ≠ .running closing) ∧ (∀ cause, s.session.state ≠ .pausing cause) →
            t.table = s.table ∧ t.link = s.link))

/-- A claim's answer to a lane that no longer claims is discarded. A lane given no extent parks, which ends a pending lowering that waited
for its park. A lane given an extent asks for a REBUILD lock on the stripe at the cursor, if that is not in the ahead set, and with the
lock for N−1 buffers; which free ones it is given is the model's choice (log entry 5). Stripes in the ahead set from the cursor on are
passed: in RUNNING with the lane admitted, each leaves the set and the cursor rises over it, until the lane begins the first stripe not in
the set or the extent is DONE, which hands the writer a trigger and shows EXTENT-DONE, and the lane claims again. In PAUSING, and above T,
the lane parks behind the first stripe passed, its extent PARTIAL at the new cursor or DONE. Where the extent is DONE or PARTIAL the
hold-waiting flag is evaluated, and HOLD-WAITING shown where that sets it. The last park in RUNNING with every extent DONE sets the
closing mark and asks for the COMPLETE record, none on a FAILED spare (log entry 37). The last park of PAUSING asks for the marked record;
that a RUNNING record of the triggers on their way precedes it is the model's choice (log entry 38). -/
def Obligations.ClaimAnswersStartStripes : Prop :=
  ∀ (l : Lane) s g given rest, s.plan.array = some g → s.mail.answers = { lane := l, given } :: rest →
    (s.lanes[l].state ≠ .claiming → exec (.claimAnswer l) s = .next { s with mail := { s.mail with answers := rest } })
    ∧ (s.lanes[l].state = .claiming → s.lanes[l].extent = none → given = none →
        (s.governor.target < s.governor.effective → RateLaw s) →
        ∃ t, exec (.claimAnswer l) s = .next t ∧ Parks l s t ∧ t.table = s.table ∧ t.locks = s.locks ∧ t.mail.answers = rest
          ∧ (∀ cause, s.session.state = .pausing cause → ParksInPausing g l cause s.mail.triggers s t)
          ∧ (s.session.state = .running false → (∀ r ∈ s.table.extents, r.state = .done) →
              (∀ k : Lane, k ≠ l → s.lanes[k].state = .parked) → CompletionAsked g s t)
          ∧ ((∃ closing, s.session.state = .running closing) →
              (∃ r ∈ s.table.extents, r.state ≠ .done) ∨ (∃ k : Lane, k ≠ l ∧ s.lanes[k].state ≠ .parked) →
              t.session = s.session ∧ t.writer = s.writer ∧ t.chans = s.chans))
    ∧ ∀ (x : Nat) cursor length r first n, s.lanes[l].state = .claiming → given = some (x, cursor, length) →
        s.table.extents[x]? = some r → r.state = .active cursor l → first = x * g.extentSize + cursor →
        (∀ i, i < n → first + i ∈ s.table.ahead) →
        (first + n ∉ s.table.ahead → (0 < n → cursor + n < extentLength g x ∧ (∃ closing, s.session.state = .running closing)
            ∧ workingUpTo s.lanes l ≤ s.governor.target) → ∃ t, exec (.claimAnswer l) s = .next t
          ∧ BeginsStripe g l x (first + n) s t
          ∧ (0 < n → t.lanes[l] = { LaneRec.parked with state := t.lanes[l].state, extent := some x, stripe := some (first + n) })
          ∧ t.table = { s.table with
              extents := s.table.extents.set x { r with state := .active (cursor + n) l }, ahead := s.table.ahead.diff (List.range' first n) }
          ∧ (n = 0 → t.table = s.table)
          ∧ (∀ k : Lane, k ≠ l → t.lanes[k] = s.lanes[k]) ∧ t.mail.answers = rest ∧ owed t.link = owed s.link
          ∧ t.writer = s.writer ∧ t.session = s.session ∧ t.governor = s.governor)
        ∧ (0 < n → cursor + n = extentLength g x → (∃ closing, s.session.state = .running closing) →
            workingUpTo s.lanes l ≤ s.governor.target → ∃ t, exec (.claimAnswer l) s = .next t
          ∧ t.lanes = s.lanes.set l { LaneRec.parked with state := .claiming } ∧ t.mail.claims = s.mail.claims ++ [l]
          ∧ t.table.extents = s.table.extents.set x { r with state := .done } ∧ t.table.ahead = s.table.ahead.diff (List.range' first n)
          ∧ t.mail.triggers = s.mail.triggers + 1 ∧ HoldFlagEvaluated s.table.holdWaiting t
          ∧ (silenced s.plan.policy .extentDone = false → Shown .extentDone 255 (.extent x) t.link)
          ∧ t.mail.answers = rest ∧ owed t.link = owed s.link ∧ t.locks = s.locks ∧ t.pool = s.pool ∧ t.writer = s.writer
          ∧ t.session = s.session ∧ t.governor = s.governor)
        ∧ (first ∈ s.table.ahead →
            ((∃ cause, s.session.state = .pausing cause)
              ∨ (∃ closing, s.session.state = .running closing) ∧ s.governor.target < workingUpTo s.lanes l ∧ RateLaw s) →
          ∃ t, exec (.claimAnswer l) s = .next t ∧ Parks l s t ∧ t.table.ahead = s.table.ahead.erase first ∧ t.locks = s.locks
          ∧ HoldFlagEvaluated s.table.holdWaiting t
          ∧ t.mail.answers = rest ∧ ((∃ cause, s.session.state = .pausing cause) → t.session = s.session)
          ∧ (cursor + 1 < extentLength g x → t.table.extents = s.table.extents.set x { r with state := .partDone (cursor + 1) }
            ∧ ∀ cause, s.session.state = .pausing cause → ParksInPausing g l cause s.mail.triggers s t)
          ∧ (cursor + 1 = extentLength g x → t.table.extents = s.table.extents.set x { r with state := .done }
            ∧ (silenced s.plan.policy .extentDone = false → Shown .extentDone 255 (.extent x) t.link)
            ∧ ((∃ closing, s.session.state = .running closing) → t.mail.triggers = s.mail.triggers + 1)
            ∧ (s.session.state = .running false → (∀ r ∈ t.table.extents, r.state = .done) →
                (∀ k : Lane, k ≠ l → s.lanes[k].state = .parked) → CompletionAsked g s t)
            ∧ ∀ cause, s.session.state = .pausing cause → ParksInPausing g l cause (s.mail.triggers + 1) s t))

/-- A grant made by FIFO service takes a lane in LOCK-WAIT to BUFFER-WAIT with a request for N−1 buffers, and a foreground operation in
LOCK-WAIT with a request for N; the request is reserved at once or joins its class with BUFFER-WAIT. Which free buffers are reserved is
the model's choice (log entry 5). -/
def Obligations.LockGrantsAskForBuffers : Prop :=
  ∀ s g, s.plan.array = some g →
    (∀ l : Lane, OpName.lane l ∈ s.mail.grants → s.lanes[l].state = .lockWait →
      ∃ t, exec (.lockGrant (.lane l)) s = .next t ∧ t.lanes = s.lanes.set l { s.lanes[l] with state := .bufferWait }
        ∧ t.mail.grants = s.mail.grants.erase (.lane l)
        ∧ (s.pool.fgWait = [] → s.pool.laneWait = [] → g.members - 1 ≤ s.pool.free.length →
            t.pool = { s.pool with
              free := s.pool.free.drop (g.members - 1)
              held := s.pool.held ++ [{ op := .lane l, ids := s.pool.free.take (g.members - 1) }] }
            ∧ t.mail.reservations = s.mail.reservations ++ [.lane l] ∧ t.monitors = s.monitors)
        ∧ (s.pool.fgWait ≠ [] ∨ s.pool.laneWait ≠ [] ∨ s.pool.free.length < g.members - 1 →
            t.pool = { s.pool with laneWait := s.pool.laneWait ++ [{ op := .lane l, count := g.members - 1 }] }
            ∧ t.mail.reservations = s.mail.reservations ∧ t.monitors = (raiseEvent .bufferWait none s).monitors)
        ∧ t.table = s.table ∧ t.locks = s.locks ∧ t.queue = s.queue ∧ t.chans = s.chans ∧ t.session = s.session)
    ∧ ∀ tag e, OpName.fg tag ∈ s.mail.grants → fgEntry tag s = some e → e.stage = .lockWait →
      ∃ t, exec (.lockGrant (.fg tag)) s = .next t ∧ fgEntry tag t = some { e with stage := .bufferWait }
        ∧ t.mail.grants = s.mail.grants.erase (.fg tag)
        ∧ (s.pool.fgWait = [] → g.members ≤ s.pool.free.length →
            t.pool = { s.pool with
              free := s.pool.free.drop g.members
              held := s.pool.held ++ [{ op := .fg tag, ids := s.pool.free.take g.members }] }
            ∧ t.mail.reservations = s.mail.reservations ++ [.fg tag] ∧ t.monitors = s.monitors)
        ∧ (s.pool.fgWait ≠ [] ∨ s.pool.free.length < g.members →
            t.pool = { s.pool with fgWait := s.pool.fgWait ++ [{ op := .fg tag, count := g.members }] }
            ∧ t.mail.reservations = s.mail.reservations ∧ t.monitors = (raiseEvent .bufferWait none s).monitors)
        ∧ t.table = s.table ∧ t.locks = s.locks ∧ t.lanes = s.lanes ∧ t.chans = s.chans ∧ t.session = s.session

/-- A reservation takes a lane in BUFFER-WAIT to READING: one outstanding read for each surviving slot, handed over to its channel in the
rebuild class, with an empty accumulation. It takes a READ-BLOCKS in BUFFER-WAIT to its read phase, or, with a block unrecoverable at
planning, to the answer LOST-DATA with the lowest such block; and a WRITE-BLOCKS to ARRAY-HALTED in HALTED or with two slots missing, to
LOST-STRIPE if it is not a full-stripe write and the stripe has a loss record, and else to its first phase: the read of the whole stripe,
or, of a full-stripe write, the write of the new blocks and of their XOR as parity. -/
def Obligations.ReservationsBeginTheWork : Prop :=
  ∀ s g, s.plan.array = some g → arrayField g = none → commitCheck g = none →
    (∀ (l : Lane) stripe, OpName.lane l ∈ s.mail.reservations → s.lanes[l].state = .bufferWait → s.lanes[l].stripe = some stripe →
      (∀ j, Surviving g j → s.chans[mappedChan g j].failed = false) →
      ∃ t, exec (.bufferReservation (.lane l)) s = .next t
        ∧ t.lanes = s.lanes.set l { s.lanes[l] with
            state := .reading, lost := [], fill := none, accum := List.replicate (stripBlocks g) 0
            reads := ((List.range g.members).filter (· ≠ g.failedSlot)).map fun j =>
              { chan := mappedChan g j, attempts := 1, outcome := .outstanding } }
        ∧ (∀ j, Surviving g j → t.chans[mappedChan g j] = { s.chans[mappedChan g j] with
            rebuildPending := s.chans[mappedChan g j].rebuildPending ++
              [{ issuer := .lane l, write := false, block := stripe * stripBlocks g, count := stripBlocks g, blocks := [] }] })
        ∧ (∀ c, (∀ j, Surviving g j → mappedChan g j ≠ c) → t.chans[c] = s.chans[c])
        ∧ t.mail = { s.mail with reservations := s.mail.reservations.erase (.lane l) }
        ∧ t.table = s.table ∧ t.locks = s.locks ∧ t.pool = s.pool ∧ t.queue = s.queue ∧ t.session = s.session ∧ t.link = s.link)
    ∧ ∀ tag e p, OpName.fg tag ∈ s.mail.reservations → fgEntry tag s = some e → e.stage = .bufferWait → p = judgePhase g e.stripe s →
      (e.write = false → (∀ q ∈ runPlaces g e.lba e.count, lostAtPlanning g p q.2.1 q.2.2 = false) →
        ∃ t, exec (.bufferReservation (.fg tag)) s = .next t ∧ owed t.link = owed s.link
          ∧ fgEntry tag t = some { e with
              stage := .readPhase, plan := { p with cmds := readCmds g p s (suppliedPositions g p e) }, bufs := emptyBuffers g }
          ∧ ∀ r, fgEntry tag t = some r → HandedOver g r false s t)
      ∧ (e.write = false → ∀ q ∈ runPlaces g e.lba e.count, lostAtPlanning g p q.2.1 q.2.2 = true →
          (∀ q' ∈ runPlaces g e.lba e.count, lostAtPlanning g p q'.2.1 q'.2.2 = true → q.1 ≤ q'.1) →
        ∃ t, exec (.bufferReservation (.fg tag)) s = .next t ∧ t.queue = s.queue.filter (fun f => f.tag ≠ tag)
          ∧ owed t.link = owed s.link ++ [{ tag, type := 0x10, answer := .lostData q.1, result := .none }] ∧ t.chans = s.chans)
      ∧ (e.write = true → isHalted s.session.state = true ∨ 2 ≤ p.missing.length →
        ∃ t, exec (.bufferReservation (.fg tag)) s = .next t ∧ t.queue = s.queue.filter (fun f => f.tag ≠ tag)
          ∧ owed t.link = owed s.link ++ [refusal tag 0x11 .arrayHalted] ∧ t.chans = s.chans)
      ∧ (e.write = true → isHalted s.session.state = false → p.missing.length < 2 → e.fullStripe = false →
          (∃ r ∈ s.losses, r.stripe = e.stripe) →
        ∃ t, exec (.bufferReservation (.fg tag)) s = .next t ∧ t.queue = s.queue.filter (fun f => f.tag ≠ tag)
          ∧ owed t.link = owed s.link ++ [refusal tag 0x11 .lostStripe] ∧ t.chans = s.chans)
      ∧ (e.write = true → isHalted s.session.state = false → p.missing.length < 2 →
          e.fullStripe = true ∨ (∀ r ∈ s.losses, r.stripe ≠ e.stripe) →
        ∃ t f, exec (.bufferReservation (.fg tag)) s = .next t ∧ fgEntry tag t = some f ∧ owed t.link = owed s.link
          ∧ f.stage = (if e.fullStripe then .writePhase else .readPhase)
          ∧ (e.fullStripe = false → f.plan.cmds = readCmds g p s (fun _ => List.range (stripBlocks g)) ∧ f.bufs = emptyBuffers g)
          ∧ HandedOver g f e.fullStripe s t
          ∧ (e.fullStripe = true → RunFits g e → e.blocks.length = e.count → e.count = stripeData g →
            f.plan.cmds = writeCmds g p s (fun _ => true)
            ∧ (∀ (i : Nat) q b, (runPlaces g e.lba e.count)[i]? = some q → e.blocks[i]? = some b → blockAt f.bufs q.2.1 q.2.2 = some b)
            ∧ ∀ k b, k < stripBlocks g → IsXor g (blockAt f.bufs) ((g.members - 1) - e.stripe % g.members) k b →
                blockAt f.bufs ((g.members - 1) - e.stripe % g.members) k = some b))

/-- A lane takes the ending of a survivor read. GOOD blocks are XORed into the accumulation. An error with attempts left on an ONLINE
channel is read again with MEMBER-RETRY. A final error on an ONLINE channel adds a lost range, of the whole strip for REJECTED and
TIMEOUT; the blocks that a final MEDIUM yields outside its range are XORed in. With no read left outstanding, whichever ending came last
and whichever reads were lost before it, the spare strip, the accumulation with the fill pattern over the fill range, which runs from the
lowest first block to the highest last block of the lost ranges and the stripe's record, is handed to the spare channel, and the lane is
WRITING. MEMBER-FAILED leaves the read lost and the lane waiting for its park. -/
def Obligations.LaneReadEndings : Prop :=
  ∀ (l : Lane) c s g stripe x u, s.plan.array = some g → s.lanes[l].state = .reading → s.lanes[l].stripe = some stripe →
    takeEnding (.lane l) false (some c) s = some (x, u) → awaitsPark s.lanes[l] = false →
    (∀ bs r, x.status = .good bs →
        r = { setRead c (fun q => { q with outcome := .good }) s.lanes[l] with accum := accumulate s.lanes[l].accum (bs.map some) } →
      (∀ (k : Nat) b a, s.lanes[l].accum[k]? = some a → bs[k]? = some b → r.accum[k]? = some (a ^^^ b))
      ∧ ((∃ q ∈ r.reads, q.outcome = .outstanding) →
          exec (.laneReadCompletion l c) s = .next { u with lanes := s.lanes.set l r })
      ∧ ((∀ q ∈ r.reads, q.outcome ≠ .outstanding) →
          ∃ t fill blocks, exec (.laneReadCompletion l c) s = .next t
            ∧ FillsOver r.lost (lossRange s.losses stripe) fill ∧ blocks.length = r.accum.length
            ∧ (∀ (k : Nat) a, r.accum[k]? = some a → blocks[k]? = some (if fill.any (inRange k) then fillBlock g.fill else a))
            ∧ t.lanes = s.lanes.set l { r with state := .writing, fill, accum := blocks }
            ∧ RebuildHanded (spareChan g)
                { issuer := .lane l, write := true, block := stripe * stripBlocks g, count := stripBlocks g, blocks } u t
            ∧ t = { u with lanes := t.lanes, chans := t.chans, mail := { u.mail with endings := t.mail.endings } }))
    ∧ ((x.status = .rejected ∨ x.status = .timeout ∨ ∃ first count bs, x.status = .medium first count bs) →
        attemptsOn s.lanes[l] c ≤ s.plan.policy.retryLimit → s.chans[c].failed = false →
      ∃ t, exec (.laneReadCompletion l c) s = .next t
        ∧ t.lanes = s.lanes.set l (setRead c (fun q => { q with attempts := q.attempts + 1 }) s.lanes[l])
        ∧ t.chans = s.chans.set c { s.chans[c] with rebuildPending := s.chans[c].rebuildPending ++
            [{ issuer := .lane l, write := false, block := stripe * stripBlocks g, count := stripBlocks g, blocks := [] }] }
        ∧ t.monitors = (raiseEvent .memberRetry (some c) s).monitors)
    ∧ (∀ (y : LostRange) (part : Nat → Option Block),
        ((x.status = .rejected ∨ x.status = .timeout) ∧ y = { chan := c, first := 0, count := stripBlocks g, cause := .timeout }
            ∧ (∀ k, part k = none)
          ∨ ∃ first count bs, x.status = .medium first count bs ∧ y = { chan := c, first, count, cause := .medium }
            ∧ ∀ k, part k = if k < first then bs[k]? else if k < first + count then none else bs[k - count]?) →
        s.plan.policy.retryLimit < attemptsOn s.lanes[l] c → s.chans[c].failed = false →
      ∃ t, exec (.laneReadCompletion l c) s = .next t ∧ t.lanes[l].lost = s.lanes[l].lost ++ [y]
        ∧ (∀ q ∈ s.lanes[l].reads, q.chan = c → { q with outcome := .lost } ∈ t.lanes[l].reads)
        ∧ ((∃ q ∈ s.lanes[l].reads, q.outcome = .outstanding ∧ q.chan ≠ c) →
            t = { u with lanes := t.lanes } ∧ t.lanes[l].state = .reading
            ∧ ∀ k a, k < stripBlocks g → s.lanes[l].accum[k]? = some a → t.lanes[l].accum[k]? = some (a ^^^ (part k).getD 0))
        ∧ ((∀ q ∈ s.lanes[l].reads, q.outcome = .outstanding → q.chan = c) → ∃ fill blocks,
            FillsOver (s.lanes[l].lost ++ [y]) (lossRange s.losses stripe) fill ∧ blocks.length = s.lanes[l].accum.length
            ∧ (∀ k a, k < stripBlocks g → s.lanes[l].accum[k]? = some a →
                blocks[k]? = some (if fill.any (inRange k) then fillBlock g.fill else a ^^^ (part k).getD 0))
            ∧ t.lanes[l].state = .writing ∧ t.lanes[l].fill = fill ∧ t.lanes[l].accum = blocks
            ∧ RebuildHanded (spareChan g)
                { issuer := .lane l, write := true, block := stripe * stripBlocks g, count := stripBlocks g, blocks } u t
            ∧ t = { u with lanes := t.lanes, chans := t.chans, mail := { u.mail with endings := t.mail.endings } }))
    ∧ (x.status = .memberFailed ∨ isGood x.status = false ∧ s.chans[c].failed = true → exec (.laneReadCompletion l c) s =
        .next { u with lanes := s.lanes.set l (setRead c (fun q => { q with outcome := .lost }) s.lanes[l]) })

/-- A lane takes the ending of its spare write. One other than GOOD leaves the spare channel FAILED and the lane as it is. On GOOD the
lost ranges go to the lost-strip list, the cursor rises, the passed stripe leaves the ahead set, REBUILD-STRIPE-DONE is raised, and
buffers and lock are released. Then, in RUNNING with the lane admitted, it passes the stripes at the new cursor that are in the ahead set
and begins the first that is not; in PAUSING, which the loss limit may just have begun, and above T it parks, its extent PARTIAL at the
new cursor. An extent whose last stripe was rebuilt or passed is DONE, the writer has a trigger, and EXTENT-DONE is shown; in RUNNING the
lane then claims again, above T and in PAUSING it parks and releases nothing. Where the extent is DONE or PARTIAL the hold-waiting flag is
evaluated, and HOLD-WAITING shown where that sets it. The last park in RUNNING with every extent DONE sets the closing mark and asks for
the COMPLETE record, none on a FAILED spare (log entry 37). The last park of PAUSING asks for the marked record; that a RUNNING record of
the triggers on their way precedes it is the model's choice (log entry 38), and so is which free buffers a lane is given (log entry 5). -/
def Obligations.LaneWriteEndings : Prop :=
  ∀ (l : Lane) s g (x : Nat) stripe e u r cursor v free, s.plan.array = some g → s.lanes[l].state = .writing → s.lanes[l].extent = some x →
    s.lanes[l].stripe = some stripe → takeEnding (.lane l) true none s = some (e, u) →
    s.table.extents[x]? = some r → r.state = .active cursor l → v = s.lanes[l].lost.foldl (recordLostRange g stripe) u →
    free = releaseLock (.lane l) stripe (releaseBuffers (.lane l) v) →
    (isGood e.status = false → ∃ t, exec (.laneWriteCompletion l) s = .next t ∧ t.chans[spareChan g].failed = true ∧ t.lanes = s.lanes
        ∧ t.table = s.table ∧ t.locks = s.locks ∧ t.losses = s.losses ∧ t.session = s.session ∧ owed t.link = owed s.link)
    ∧ (s.lanes[l].lost = [] → v = u)
    ∧ (isGood e.status = true → ((∃ cause, v.session.state = .pausing cause)
          ∨ (∃ closing, v.session.state = .running closing) ∧ s.governor.target < workingUpTo s.lanes l ∧ RateLaw s) →
      ∃ t, exec (.laneWriteCompletion l) s = .next t ∧ Parks l s t
      ∧ t.losses = v.losses ∧ t.table.ahead = s.table.ahead.erase (x * g.extentSize + cursor)
      ∧ HoldFlagEvaluated s.table.holdWaiting t
      ∧ t.monitors = (raiseEvent .rebuildStripeDone none v).monitors ∧ t.locks = free.locks
      ∧ (s.writer.next ≠ .exhausted → t.pool = free.pool)
      ∧ ((∃ cause, v.session.state = .pausing cause) → t.session = v.session)
      ∧ (cursor + 1 < extentLength g x → t.table.extents = s.table.extents.set x { r with state := .partDone (cursor + 1) }
        ∧ ((∃ closing, v.session.state = .running closing) → t.session = v.session ∧ t.writer = v.writer ∧ t.pool = free.pool)
        ∧ ∀ cause, v.session.state = .pausing cause → ParksInPausing g l cause s.mail.triggers v t)
      ∧ (cursor + 1 = extentLength g x → t.table.extents = s.table.extents.set x { r with state := .done }
        ∧ (silenced s.plan.policy .extentDone = false → Shown .extentDone 255 (.extent x) t.link)
        ∧ ((∃ closing, v.session.state = .running closing) → t.mail.triggers = s.mail.triggers + 1)
        ∧ (v.session.state = .running false → (∀ r ∈ t.table.extents, r.state = .done) →
            (∀ k : Lane, k ≠ l → s.lanes[k].state = .parked) → CompletionAsked g free t)
        ∧ ∀ cause, v.session.state = .pausing cause → ParksInPausing g l cause (s.mail.triggers + 1) v t))
    ∧ ∀ first n, isGood e.status = true → (∃ closing, v.session.state = .running closing) → workingUpTo s.lanes l ≤ s.governor.target →
        first = x * g.extentSize + cursor → (∀ i, i < n → first + 1 + i ∈ s.table.ahead) →
      (cursor + 1 + n = extentLength g x → ∃ t, exec (.laneWriteCompletion l) s = .next t
        ∧ t.table.extents = s.table.extents.set x { r with state := .done }
        ∧ t.table.ahead = s.table.ahead.diff (List.range' first (n + 1))
        ∧ t.lanes = s.lanes.set l { LaneRec.parked with state := .claiming } ∧ t.mail.claims = s.mail.claims ++ [l]
        ∧ t.mail.triggers = s.mail.triggers + 1 ∧ HoldFlagEvaluated s.table.holdWaiting t
        ∧ (silenced s.plan.policy .extentDone = false → Shown .extentDone 255 (.extent x) t.link)
        ∧ t.losses = v.losses ∧ t.session = v.session ∧ t.writer = v.writer ∧ t.governor = s.governor
        ∧ t.monitors = (raiseEvent .rebuildStripeDone none v).monitors ∧ t.locks = free.locks ∧ t.pool = free.pool)
      ∧ (cursor + 1 + n < extentLength g x → first + 1 + n ∉ s.table.ahead → ∃ t, exec (.laneWriteCompletion l) s = .next t
        ∧ t.table.extents = s.table.extents.set x { r with state := .active (cursor + 1 + n) l }
        ∧ t.table.holdWaiting = s.table.holdWaiting
        ∧ t.table.ahead = s.table.ahead.diff (List.range' first (n + 1))
        ∧ t.lanes[l] = { LaneRec.parked with state := t.lanes[l].state, extent := some x, stripe := some (first + 1 + n) }
        ∧ BeginsStripe g l x (first + 1 + n) free t ∧ (∀ k : Lane, k ≠ l → t.lanes[k] = s.lanes[k])
        ∧ t.losses = v.losses ∧ t.session = v.session ∧ t.writer = v.writer ∧ t.governor = s.governor)

/-- An addition to the lost-strip list widens the stripe's record, keeping its channel and cause, and consults no limit; inserts a record
in ascending order, and at the loss limit makes RUNNING PAUSING with cause LOSS and LOSS-LIMIT, and the cause REQUEST of PAUSING LOSS; or,
with 256 records of other stripes, changes nothing and leaves the spare channel FAILED. STRIP-LOST is shown with each lost range. A lane
whose spare write ends GOOD has each of its lost ranges covered by its stripe's record, unless the list could not take it. -/
def Obligations.LostRangesAreRecorded : Prop :=
  (∀ g stripe (x : LostRange) s,
    (∀ r ∈ s.losses, r.stripe ≠ stripe) →
    (s.losses.length < 256 →
      (addLoss g stripe x s).losses = insertLoss { stripe, first := x.first, count := x.count, chan := x.chan, cause := x.cause } s.losses
      ∧ (s.session.state = .running false → s.plan.policy.lossLimit ≤ s.losses.length + 1 →
          (addLoss g stripe x s).session.state = .pausing .loss
          ∧ (silenced s.plan.policy .lossLimit = false →
              Shown .lossLimit 255 (.lossLimit (s.losses.length + 1) s.plan.policy.lossLimit) (addLoss g stripe x s).link))
      ∧ (s.session.state = .pausing .request → s.plan.policy.lossLimit ≤ s.losses.length + 1 →
          (addLoss g stripe x s).session = { s.session with state := .pausing .loss })
      ∧ (s.losses.length + 1 < s.plan.policy.lossLimit → (addLoss g stripe x s).session = s.session))
    ∧ (256 ≤ s.losses.length →
      (addLoss g stripe x s).losses = s.losses ∧ (addLoss g stripe x s).chans[spareChan g].failed = true))
    ∧ (∀ g stripe (x : LostRange) s, (∃ r ∈ s.losses, r.stripe = stripe) → addLoss g stripe x s = { s with
        losses := s.losses.map fun r => if r.stripe = stripe then
          { r with first := min r.first x.first, count := max (r.first + r.count) (x.first + x.count) - min r.first x.first } else r })
    ∧ (∀ g stripe (x : LostRange) s, silenced s.plan.policy .stripLost = false →
      Shown .stripLost 255 (.stripLost stripe x.chan) (recordLostRange g stripe s x).link)
    ∧ ∀ (l : Lane) s g (x : Nat) stripe e u, s.plan.array = some g → s.lanes[l].state = .writing → s.lanes[l].extent = some x →
      s.lanes[l].stripe = some stripe → takeEnding (.lane l) true none s = some (e, u) → isGood e.status = true → LossLaw s.losses →
      ∃ t, exec (.laneWriteCompletion l) s = .next t
        ∧ (∀ y ∈ s.lanes[l].lost, (∃ r ∈ t.losses, r.stripe = stripe ∧ r.first ≤ y.first ∧ y.first + y.count ≤ r.first + r.count)
          ∨ 256 ≤ s.losses.length ∧ t.chans[spareChan g].failed = true)
        ∧ (∀ r ∈ s.losses, r.stripe ≠ stripe → r ∈ t.losses) ∧ ∀ r ∈ t.losses, r.stripe ≠ stripe → r ∈ s.losses

/-- A signal to the rate governor lowers G by one, not below 1, starts the quiet timer afresh and recomputes T; the expiry of the quiet
timer raises G by one, not above 4, starts the timer afresh below 4 and stops it at 4, and recomputes T. The effective level follows T,
RATE-CHANGED tells of a change, and in RUNNING with a candidate parked lanes wake when it rises or a lowering ends, the lowest first,
until as many work as it allows; that a level lowered at once counts as a lowering ended is log entry 26. The clock stands at the expiry,
if it was not past it (log entry 7). That a signal or an expiry that cannot come, without a signal handed over or with the timer stopped,
changes nothing is the model's choice (log entry 1). -/
def Obligations.GovernorSignalsAndQuietTimer : Prop :=
  ∀ s,
    (s.mail.signals = 0 → exec .governSignal s = .next s)
    ∧ (0 < s.mail.signals → ∃ t, exec .governSignal s = .next t
      ∧ t.mail = { s.mail with claims := t.mail.claims, signals := s.mail.signals - 1 } ∧ LanesFollow s t
      ∧ (t.governor.effective ≠ s.governor.effective → silenced s.plan.policy .rateChanged = false →
          Shown .rateChanged 255 (.level t.governor.effective) t.link)
      ∧ t.governor = {
          commanded := s.governor.commanded
          limit := max 1 (s.governor.limit - 1)
          target := min s.governor.commanded (min s.plan.policy.ceiling (max 1 (s.governor.limit - 1)))
          effective := effectiveAfter (min s.governor.commanded (min s.plan.policy.ceiling (max 1 (s.governor.limit - 1))))
            s.governor.effective (workingLanes s.lanes)
          quiet := some (s.now + s.plan.policy.quietS * 1000) }
      ∧ owed t.link = owed s.link ∧ t.now = s.now
      ∧ t.plan = s.plan ∧ t.session = s.session ∧ t.table = s.table ∧ t.locks = s.locks ∧ t.pool = s.pool ∧ t.queue = s.queue
      ∧ t.chans = s.chans ∧ t.stripSent = s.stripSent ∧ t.losses = s.losses ∧ t.writer = s.writer ∧ t.monitors = s.monitors)
    ∧ (s.governor.quiet = none → exec .quietTimerExpiry s = .next s)
    ∧ ∀ expiry, s.governor.quiet = some expiry → ∃ t, exec .quietTimerExpiry s = .next t ∧ t.now = max s.now expiry
      ∧ t.mail = { s.mail with claims := t.mail.claims } ∧ LanesFollow s t
      ∧ (t.governor.effective ≠ s.governor.effective → silenced s.plan.policy .rateChanged = false →
          Shown .rateChanged 255 (.level t.governor.effective) t.link)
      ∧ t.governor = {
          commanded := s.governor.commanded
          limit := min 4 (s.governor.limit + 1)
          target := min s.governor.commanded (min s.plan.policy.ceiling (min 4 (s.governor.limit + 1)))
          effective := effectiveAfter (min s.governor.commanded (min s.plan.policy.ceiling (min 4 (s.governor.limit + 1))))
            s.governor.effective (workingLanes s.lanes)
          quiet := if s.governor.limit + 1 < 4 then some (max s.now expiry + s.plan.policy.quietS * 1000) else none }
      ∧ owed t.link = owed s.link
      ∧ t.plan = s.plan ∧ t.session = s.session ∧ t.table = s.table ∧ t.locks = s.locks ∧ t.pool = s.pool ∧ t.queue = s.queue
      ∧ t.chans = s.chans ∧ t.stripSent = s.stripSent ∧ t.losses = s.losses ∧ t.writer = s.writer ∧ t.monitors = s.monitors

/-! ## Checkpoints -/

/-- A trigger taken in RUNNING or PAUSING with no marked write waiting begins a RUNNING-marked write if the writer is idle, and sets the
again flag if a RUNNING-marked write is in flight. In another state, or with a marked write waiting or in flight, it changes nothing else.
With the next sequence EXHAUSTED an idle writer writes none, and the spare is declared FAILED with cause REPORT. That no write is begun,
and the trigger dropped, while the spare is FAILED and the declaration not yet taken is the model's choice (log entry 37). The period
timer's expiry starts the timer afresh and is taken as such a trigger; that the clock then stands at the expiry, if it was not past it, is
the model's choice (log entry 7). -/
def Obligations.TriggersAskForRunningRecords : Prop :=
  ∀ c s, (c = .checkpointTrigger ∧ 0 < s.mail.triggers ∨ c = .periodTimerExpiry ∧ s.writer.period ≠ none) →
    ∃ t, exec c s = .next t
      ∧ (c = .checkpointTrigger → t.now = s.now ∧ t.writer.period = s.writer.period ∧ t.mail.triggers = s.mail.triggers - 1)
      ∧ (∀ expiry, c = .periodTimerExpiry → s.writer.period = some expiry → t.now = max s.now expiry
          ∧ t.writer.period = some (max s.now expiry + s.plan.policy.periodS * 1000) ∧ t.mail.triggers = s.mail.triggers)
      ∧ ((∀ closing, s.session.state ≠ .running closing) ∧ (∀ cause, s.session.state ≠ .pausing cause)
            ∨ s.writer.waiting ≠ none ∨ (∃ w, s.writer.state = .writing w ∧ w.mark ≠ .running) →
          t.writer = { s.writer with period := t.writer.period } ∧ t.chans = s.chans)
      ∧ ((∃ closing, s.session.state = .running closing) ∨ (∃ cause, s.session.state = .pausing cause) → s.writer.waiting = none →
          (∀ w, s.writer.state = .writing w → w.mark = .running →
            t.writer = { s.writer with again := true, period := t.writer.period } ∧ t.chans = s.chans)
          ∧ (∀ g, s.writer.state = .idle → s.plan.array = some g → s.chans[spareChan g].failed = true →
            t.writer = { s.writer with period := t.writer.period } ∧ t.chans = s.chans)
          ∧ (∀ g, s.writer.state = .idle → s.plan.array = some g → s.writer.next = .exhausted → s.chans[spareChan g].failed = false →
            t.writer = { s.writer with period := t.writer.period } ∧ DeclaredOnReport (spareChan g) s t)
          ∧ ∀ g n, s.writer.state = .idle → s.plan.array = some g → s.writer.next = .seq n → s.chans[spareChan g].failed = false →
            t.writer = { s.writer with
              state := .writing { mark := .running, sequence := n, slot := s.writer.slot }, period := t.writer.period }
            ∧ ∃ cmd, t.chans = s.chans.set (spareChan g) { s.chans[spareChan g] with
                rebuildPending := s.chans[spareChan g].rebuildPending ++ [cmd] }
              ∧ cmd.issuer = .checkpoint ∧ cmd.write = true ∧ cmd.block = areaStart g s.writer.slot ∧ cmd.count = cmd.blocks.length
              ∧ cmd.blocks = blocksOfBytes (recordBytes g n .running s.plan.policy.lossLimit s.table.extents s.losses))
      ∧ t.plan = s.plan ∧ t.session = s.session ∧ t.table = s.table ∧ t.lanes = s.lanes ∧ t.governor = s.governor ∧ t.locks = s.locks
      ∧ t.queue = s.queue ∧ t.stripSent = s.stripSent ∧ t.losses = s.losses ∧ t.monitors = s.monitors

/-- The writer takes its write's ending. GOOD: the sequence rises by one and the slot changes over, and by the mark and the state START's
second write begins, START or PAUSE or ABORT is answered DONE, parked lanes wake as CONTINUE wakes them where START's second write has
brought RUNNING, a LOSS pause ends in LOSS-STOP, or the spare becomes a member and the session is COMPLETE. Where the session is in no
state that a write of this mark ends, as with any mark in HALTED, nothing of it moves. A waiting marked write begins behind the write with
fresh content and absorbs the again flag; the again flag alone begins a RUNNING write in RUNNING and PAUSING; with the sequence now
EXHAUSTED the spare is declared FAILED instead. That neither begins, and the request is dropped, while the spare is FAILED and the
declaration not yet taken is the model's choice (log entry 37). Other than GOOD: the spare channel is FAILED and the writer is idle with
nothing waiting; with the ABANDONED write the session returns to IDLE and ABORT is answered DONE all the same. -/
def Obligations.CheckpointWriteEndings : Prop :=
  ∀ s g w x u, s.plan.array = some g → s.writer.state = .writing w → takeEnding .checkpoint true none s = some (x, u) →
    (∀ bs, x.status = .good bs → s.writer.waiting = none → s.writer.again = false →
      ∃ t, exec .checkpointWriteCompletion s = .next t
        ∧ (w.mark = .running → w.sequence = 1 → s.session.state = .starting → s.chans[spareChan g].failed = false →
            t.writer = { s.writer with
              state := .writing { mark := .running, sequence := 2, slot := otherSlot w.slot }, next := .seq 2, slot := otherSlot w.slot }
            ∧ t.session = s.session ∧ owed t.link = owed s.link)
        ∧ (∀ tag, w.mark = .running → w.sequence = 2 → s.session = { state := .starting, longOp := some { kind := .start, tag } } →
            (∃ r ∈ s.table.extents, r.state ≠ .done) →
            t.session = { state := .running false, longOp := none } ∧ owed t.link = owed s.link ++ [done tag 0x08 .none]
            ∧ WakesAsAdmitted s t ∧ t.mail = { u.mail with claims := t.mail.claims } ∧ t.table = s.table ∧ t.governor = s.governor
            ∧ t.chans = s.chans
            ∧ t.writer = { s.writer with
                state := .idle, next := .seq 3, slot := otherSlot w.slot, period := some (s.now + s.plan.policy.periodS * 1000) })
        ∧ (∀ tag cause, w.mark = pauseMark cause → s.session = { state := .pausing cause, longOp := some { kind := .pause, tag } } →
            t.session = { state := (match cause with | .request => .paused | .loss => .lossStop), longOp := none }
            ∧ owed t.link = owed s.link ++ [done tag 0x0A .none]
            ∧ t.writer = { s.writer with state := .idle, next := nextSequence w.sequence, slot := otherSlot w.slot })
        ∧ (w.mark = .complete → s.session.state = .running true →
            t.session = { s.session with state := .complete } ∧ owed t.link = owed s.link ∧ t.writer.period = none
            ∧ t.chans = s.chans.set (spareChan g) { s.chans[spareChan g] with role := .survivor g.failedSlot })
        ∧ (∀ tag, w.mark = .abandoned → s.session = { state := .draining, longOp := some { kind := .abort, tag } } →
            t.session = { state := .idle, longOp := none } ∧ owed t.link = owed s.link ++ [done tag 0x0C .none]
            ∧ t.table = { extents := [], ahead := [], holdWaiting := false } ∧ t.losses = []
            ∧ t.writer = { state := .idle, next := .seq 1, slot := .a, again := false, waiting := none, period := none }
            ∧ ∀ c : Chan, t.chans[c] = { s.chans[c] with role := .unused, failed := false, errors := 0 }))
    ∧ (∀ bs m, x.status = .good bs → MovesNoSession w s.session.state →
        (s.writer.waiting = some m ∨ s.writer.waiting = none ∧ s.writer.again = true ∧ m = .running
          ∧ ((∃ closing, s.session.state = .running closing) ∨ ∃ cause, s.session.state = .pausing cause)) →
      ∃ t, exec .checkpointWriteCompletion s = .next t ∧ t.session = s.session ∧ owed t.link = owed s.link
        ∧ (∀ cmd n, w.sequence < 4294967295 → n = w.sequence + 1 → cmd.issuer = .checkpoint → cmd.write = true →
            cmd.block = areaStart g (otherSlot w.slot) → cmd.count = cmd.blocks.length →
            cmd.blocks = blocksOfBytes (recordBytes g n m s.plan.policy.lossLimit s.table.extents s.losses) →
            s.chans[spareChan g].failed = false →
          t.writer = { s.writer with
            state := .writing { mark := m, sequence := n, slot := otherSlot w.slot }, next := .seq n, slot := otherSlot w.slot
            again := false, waiting := none }
          ∧ t.chans = s.chans.set (spareChan g) { s.chans[spareChan g] with
              rebuildPending := s.chans[spareChan g].rebuildPending ++ [cmd] })
        ∧ (w.sequence = 4294967295 → s.chans[spareChan g].failed = false →
          t.writer = { s.writer with state := .idle, next := .exhausted, slot := otherSlot w.slot, again := false, waiting := none }
          ∧ DeclaredOnReport (spareChan g) u t)
        ∧ (s.chans[spareChan g].failed = true →
          t.writer = { s.writer with
            state := .idle, next := nextSequence w.sequence, slot := otherSlot w.slot, again := false, waiting := none }
          ∧ t.chans = s.chans))
    ∧ (∀ bs, x.status = .good bs → MovesNoSession w s.session.state → s.writer.waiting = none →
        (s.writer.again = false ∨ (∀ closing, s.session.state ≠ .running closing) ∧ ∀ cause, s.session.state ≠ .pausing cause) →
      ∃ t, exec .checkpointWriteCompletion s = .next t ∧ t.session = s.session ∧ owed t.link = owed s.link ∧ t.chans = s.chans
        ∧ t.writer = { s.writer with state := .idle, next := nextSequence w.sequence, slot := otherSlot w.slot, again := false })
    ∧ (∀ bs cause, x.status = .good bs → w.mark = pauseMark cause → s.session = { state := .pausing cause, longOp := none } →
        s.writer.waiting = none → s.writer.again = false →
      ∃ t, exec .checkpointWriteCompletion s = .next t
        ∧ t.session = { state := (match cause with | .request => .paused | .loss => .lossStop), longOp := none } ∧ owed t.link = owed s.link
        ∧ t.writer = { s.writer with state := .idle, next := nextSequence w.sequence, slot := otherSlot w.slot })
    ∧ (∀ tag, isGood x.status = false → w.mark = .abandoned → s.session = { state := .draining, longOp := some { kind := .abort, tag } } →
      ∃ t, exec .checkpointWriteCompletion s = .next t ∧ t.session = { state := .idle, longOp := none }
        ∧ owed t.link = owed s.link ++ [done tag 0x0C .none] ∧ t.table = { extents := [], ahead := [], holdWaiting := false }
        ∧ t.losses = [] ∧ t.writer = { state := .idle, next := .seq 1, slot := .a, again := false, waiting := none, period := none })
    ∧ (isGood x.status = false → w.mark ≠ .abandoned → (x.status = .memberFailed → s.chans[spareChan g].failed = true) →
      ∃ t, exec .checkpointWriteCompletion s = .next t ∧ t.chans[spareChan g].failed = true
        ∧ t.writer = { s.writer with state := .idle, again := false, waiting := none } ∧ t.session = s.session
        ∧ t.table = s.table ∧ t.losses = s.losses ∧ owed t.link = owed s.link)

/-- A record composed of a table and a loss list in range is laid out field by field in at most six blocks, zero behind its check; its
check is right, it is valid for its own group, and it reads back as what was captured. What the writer finds in a slot: without a right
check nothing more is said; with one, whether the fingerprint differs from the active ARRAY group's, which a record that is not
well-formed counts as, and whether the epoch does. A record is valid if its check is right, it is well-formed, and neither differs. Which
fields beyond those R154 names are looked at, and a record whose E is zero, are the model's choices (log entry 8), and so is what a
verdict shows: no difference without a right check, and with one the two differences independently of each other, the fingerprint's also
of a record that is not well-formed (log entry 20). -/
def Obligations.RecordsAreJudged : Prop :=
  ∀ g bs, arrayField g = none → commitCheck g = none →
    (¬ CheckRight bs → judgeRecord g bs = { checkRight := false, fingerprintDiffers := false, epochDiffers := false })
    ∧ (CheckRight bs → (judgeRecord g bs).checkRight = true
        ∧ ((judgeRecord g bs).fingerprintDiffers = false ↔ RecordWellFormed bs ∧ SameFingerprint g bs)
        ∧ ((judgeRecord g bs).epochDiffers = false ↔ numAt bs 36 4 = g.epoch))
    ∧ ((judgeRecord g bs).valid = true ↔ CheckRight bs ∧ RecordWellFormed bs ∧ SameFingerprint g bs ∧ numAt bs 36 4 = g.epoch)
    ∧ ∀ n m limit es ls written rest, 1 ≤ n → n ≤ 4294967295 → 1 ≤ limit → limit ≤ 256 → CaptureFits g es ls →
      written = blocksOfBytes (recordBytes g n m limit es ls) → bs = written ++ rest →
      HoldsRecord g n m limit es ls bs ∧ CheckRight bs ∧ (judgeRecord g bs).valid = true
      ∧ written.length = (48 + 4 * es.length + 16 * ls.length + 4 + 4095) / 4096 ∧ written.length ≤ 6
      ∧ (∀ i, 48 + 4 * es.length + 16 * ls.length + 4 ≤ i → i < 4096 * written.length → byteAt bs i = 0)
      ∧ recordExtents bs = es.length ∧ markOf (numAt bs 4 1) = some m ∧ recordLossList bs = ls
      ∧ ∀ (x : Nat) r, es[x]? = some r → ∃ st, CapturedAs st r.state ∧ recordEntry bs x = some st

/-- The writer takes a slot read's ending. One other than GOOD with attempts left on an ONLINE spare is read again with MEMBER-RETRY. Slot
A's GOOD blocks lead to the read of slot B. With slot B's, RESTORE is answered: TARGET-LOST while the spare is FAILED; DONE with the valid
record of the higher sequence loaded, its counts and its loss limit told, the roles given, survivors without a link FAILED, the
hold-waiting flag evaluated, with HOLD-WAITING where a restore to PAUSED sets it, and the session PAUSED, or COMPLETE with the spare a
member for a record marked COMPLETE; CHECKPOINT-CLOSED for one marked HALTED or ABANDONED; STALE-CHECKPOINT with both verdicts, or
NO-CHECKPOINT without a right check. A final failure answers TARGET-LOST, and every refusal returns the session to IDLE. That an entry not
DONE in a record marked COMPLETE loads as recorded is the model's choice (log entry 42). -/
def Obligations.CheckpointReadEndings : Prop :=
  ∀ s g r x u tag, s.plan.array = some g → s.writer.state = .reading r → takeEnding .checkpoint false none s = some (x, u) →
    s.session = { state := .restoring, longOp := some { kind := .restore, tag } } →
    (∀ bs, x.status = .good bs → r.current = .a → s.chans[spareChan g].failed = false → ∃ t, exec .checkpointReadCompletion s = .next t
      ∧ t.writer = { s.writer with state := .reading { r with a := .read bs, current := .b, attempts := 1 } }
      ∧ t.chans = s.chans.set (spareChan g) { s.chans[spareChan g] with
          rebuildPending := s.chans[spareChan g].rebuildPending ++
            [{ issuer := .checkpoint, write := false, block := g.stripes * stripBlocks g + 256, count := 6, blocks := [] }] }
      ∧ t = { u with writer := t.writer, chans := t.chans })
    ∧ (∀ bs as, x.status = .good bs → r.current = .b → r.a = .read as → s.chans[spareChan g].failed = false →
      ((judgeRecord g as).valid = false → (judgeRecord g bs).valid = false →
        (judgeRecord g as).checkRight = true ∨ (judgeRecord g bs).checkRight = true →
        ∃ t, exec .checkpointReadCompletion s = .next t ∧ t.session = { state := .idle, longOp := none }
          ∧ owed t.link = owed s.link ++ [{ tag, type := 0x09, answer := .refused .staleCheckpoint
                                            result := .stale (judgeRecord g as) (judgeRecord g bs) }])
      ∧ ((judgeRecord g as).checkRight = false → (judgeRecord g bs).checkRight = false →
        ∃ t, exec .checkpointReadCompletion s = .next t ∧ t.session = { state := .idle, longOp := none }
          ∧ owed t.link = owed s.link ++ [refusal tag 0x09 .noCheckpoint])
      ∧ ∀ slot rec mark, ((judgeRecord g as).valid = true ∧ slot = .a ∧ rec = as
            ∧ ((judgeRecord g bs).valid = true → numAt bs 0 4 ≤ numAt as 0 4)
          ∨ (judgeRecord g bs).valid = true ∧ slot = .b ∧ rec = bs
            ∧ ((judgeRecord g as).valid = true → numAt as 0 4 < numAt bs 0 4)) →
          markOf (numAt rec 4 1) = some mark →
          (mark = .halted ∨ mark = .abandoned →
            ∃ t, exec .checkpointReadCompletion s = .next t ∧ t.session = { state := .idle, longOp := none }
              ∧ owed t.link = owed s.link ++ [refusal tag 0x09 .checkpointClosed])
          ∧ (∀ state spareRole, (mark = .running ∨ mark = .paused ∨ mark = .lossStop) ∧ state = .paused ∧ spareRole = .target
                ∨ mark = .complete ∧ state = .complete ∧ spareRole = .survivor g.failedSlot →
            ∃ t d p e, exec .checkpointReadCompletion s = .next t ∧ t.session = { state, longOp := none }
              ∧ owed t.link = owed s.link ++ [done tag 0x09 (.restored slot (numAt rec 0 4) mark (numAt rec 40 2) d p e (numAt rec 42 2))]
              ∧ d = (List.range (recordExtents rec)).countP (fun y => recordEntry rec y = some .done)
              ∧ p = (List.range (recordExtents rec)).countP (fun y => (recordEntry rec y).any fun st => st ≠ .done && st ≠ .pending)
              ∧ e = (List.range (recordExtents rec)).countP (fun y => recordEntry rec y = some .pending)
              ∧ t.losses.length = numAt rec 42 2
              ∧ t.table.extents.length = recordExtents rec ∧ t.table.ahead = [] ∧ t.losses = recordLossList rec
              ∧ HoldFlagEvaluated false t
              ∧ (∀ y, y < recordExtents rec → ∃ st, recordEntry rec y = some st ∧
                  t.table.extents[y]? = some { state := st, cls := classOf s.plan.windows y })
              ∧ t.writer.state = .idle ∧ t.writer.next = nextSequence (numAt rec 0 4) ∧ t.writer.slot = otherSlot slot
              ∧ t.chans[spareChan g].role = spareRole
              ∧ (arrayField g = none → commitCheck g = none → ∀ j, Surviving g j →
                t.chans[mappedChan g j].role = .survivor j
                ∧ (s.chans[mappedChan g j].linkPresent = true → t.chans[mappedChan g j].failed = s.chans[mappedChan g j].failed)
                ∧ (s.chans[mappedChan g j].linkPresent = false → t.chans[mappedChan g j].failed = true))))
    ∧ ((x.status = .rejected ∨ x.status = .timeout ∨ ∃ first n bs, x.status = .medium first n bs) →
        r.attempts ≤ s.plan.policy.retryLimit → s.chans[spareChan g].failed = false →
      ∃ t, exec .checkpointReadCompletion s = .next t ∧ t.session = s.session ∧ owed t.link = owed s.link
        ∧ t.writer = { s.writer with state := .reading { r with attempts := r.attempts + 1 } }
        ∧ t.chans = s.chans.set (spareChan g) { s.chans[spareChan g] with
            rebuildPending := s.chans[spareChan g].rebuildPending ++
              [{ issuer := .checkpoint, write := false, block := areaStart g r.current, count := 6, blocks := [] }] }
        ∧ t.monitors = (raiseEvent .memberRetry (some (spareChan g)) s).monitors)
    ∧ (x.status = .memberFailed ∨ isGood x.status = false ∧ (s.plan.policy.retryLimit < r.attempts ∨ s.chans[spareChan g].failed = true)
          ∨ isGood x.status = true ∧ r.current = .b ∧ s.chans[spareChan g].failed = true →
      ∃ t, exec .checkpointReadCompletion s = .next t ∧ t.session = { state := .idle, longOp := none } ∧ t.table.extents = []
        ∧ owed t.link = owed s.link ++ [{ tag, type := 0x09, answer := .targetLost, result := .none }])

/-- The drain ends when no orphan remains, the foreground queue is empty and no checkpoint write is in flight: the ABANDONED record is
begun, or with the spare FAILED the session returns to IDLE at once and ABORT is answered DONE. With the next sequence EXHAUSTED no record
is written and the spare is FAILED; that the session stays DRAINING until the conditions are judged again is the model's choice (log entry
39). While the conditions do not hold nothing changes. -/
def Obligations.DrainEndsWhenNoWorkRemains : Prop :=
  ∀ s,
    (s.session.state ≠ .draining ∨ orphanCount s ≠ 0 ∨ s.queue ≠ [] ∨ (∃ w, s.writer.state = .writing w) →
      exec .drainEnd s = .next s)
    ∧ ∀ tag g, s.session = { state := .draining, longOp := some { kind := .abort, tag } } → orphanCount s = 0 → s.queue = [] →
      s.plan.array = some g →
      (∀ n, s.writer.state = .idle → s.writer.next = .seq n → s.chans[spareChan g].failed = false →
        ∃ t cmd, exec .drainEnd s = .next t ∧ t.session = s.session ∧ owed t.link = owed s.link
          ∧ t.writer = { s.writer with state := .writing { mark := .abandoned, sequence := n, slot := s.writer.slot } }
          ∧ t.chans = s.chans.set (spareChan g) { s.chans[spareChan g] with
              rebuildPending := s.chans[spareChan g].rebuildPending ++ [cmd] }
          ∧ cmd.issuer = .checkpoint ∧ cmd.write = true ∧ cmd.block = areaStart g s.writer.slot
          ∧ cmd.blocks = blocksOfBytes (recordBytes g n .abandoned s.plan.policy.lossLimit s.table.extents s.losses))
      ∧ (s.writer.state = .idle → s.writer.next = .exhausted → s.chans[spareChan g].failed = false →
        ∃ t, exec .drainEnd s = .next t ∧ t.session = s.session ∧ owed t.link = owed s.link ∧ t.chans[spareChan g].failed = true
          ∧ t.writer = s.writer)
      ∧ ((∀ w, s.writer.state ≠ .writing w) → s.chans[spareChan g].failed = true →
        ∃ t, exec .drainEnd s = .next t ∧ t.session = { state := .idle, longOp := none } ∧ t.losses = []
          ∧ t.table = { extents := [], ahead := [], holdWaiting := false }
          ∧ owed t.link = owed s.link ++ [done tag 0x0C .none] ∧ t.plan = s.plan ∧ t.governor = s.governor ∧ t.monitors = s.monitors)

/-- The write in flight has the next sequence and goes to the next slot, and every step keeps it so. The two advance together, when that
write is completed and by no other step: the sequence by one, or to EXHAUSTED behind 4294967295, the slot to the other one. Outside
RESTORING they otherwise stand, or are 1 and A again at a reset, at START or at the return to IDLE. So within one session records are
written with strictly increasing sequences to alternating slots. -/
def Obligations.SequencesRiseAndSlotsAlternate : Prop :=
  ∀ s t, WriterLaw s.writer → step s = .next t → WriterLaw t.writer
    ∧ (s.session.state ≠ .restoring → SessionLaw s →
      t.writer.next = s.writer.next ∧ t.writer.slot = s.writer.slot
      ∨ (∃ w rest, s.writer.state = .writing w ∧ s.pending = .checkpointWriteCompletion :: rest ∧ s.writer.next = .seq w.sequence
          ∧ t.writer.next = (if w.sequence = 4294967295 then .exhausted else .seq (w.sequence + 1))
          ∧ s.writer.slot = w.slot ∧ (t.writer.slot = .a ↔ w.slot = .b))
      ∨ t.writer.next = .seq 1 ∧ t.writer.slot = .a
        ∧ (t.session.state = .idle ∨ t.session.state = .starting
          ∨ ((∃ bytes rest, s.pending = .linkError bytes :: rest) ∨ (∃ rest, s.pending = .heldRecordDispatch :: rest)
              ∨ s.link.hunting = .frame ∧ ∃ c rest p, s.pending = c :: rest ∧ c.record = some p)
            ∧ (t.session.state = .restoring ∨ t.session.state = .draining)))

/-! ## Geometry -/

/-- The parity strip of stripe s lies on slot (N−1) − (s mod N), data strip d on slot (p(s) + 1 + d) mod N, and slot j holds the parity
strip or data strip (j − p(s) − 1) mod N; the two mappings are inverse to each other. A logical block is located by dividing by D and by
B, and is found back from its stripe, slot and block position; no logical block lies on a parity strip, and every member block of one lies
below stripe count × B. -/
def Obligations.StripsAndBlocksAreLocated : Prop :=
  (∀ (g : ArrayGroup) s, 3 ≤ g.members →
    (∀ d, d < g.members - 1 → dataSlot g s d = (((g.members - 1) - s % g.members) + 1 + d) % g.members
      ∧ dataSlot g s d < g.members ∧ stripOn g s (dataSlot g s d) = some d)
    ∧ stripOn g s ((g.members - 1) - s % g.members) = none
    ∧ ∀ j, j < g.members → j ≠ (g.members - 1) - s % g.members → ∃ d, stripOn g s j = some d ∧ d < g.members - 1
      ∧ (d : Int) = ((j : Int) - (((g.members - 1) - s % g.members : Nat) : Int) - 1) % (g.members : Int) ∧ dataSlot g s d = j)
    ∧ (∀ (g : ArrayGroup) a, 3 ≤ g.members → 0 < stripBlocks g → a < capacity g →
    (locate g a).stripe = a / stripeData g
    ∧ (locate g a).strip = a % stripeData g / stripBlocks g ∧ (locate g a).block = a % stripeData g % stripBlocks g
    ∧ (locate g a).slot = (((g.members - 1) - (locate g a).stripe % g.members) + 1 + (locate g a).strip) % g.members
    ∧ (locate g a).member = (locate g a).stripe * stripBlocks g + (locate g a).block
    ∧ (locate g a).member < g.stripes * stripBlocks g
    ∧ logicalBlock g (locate g a).stripe (locate g a).slot (locate g a).block = some a
    ∧ (∀ s k, logicalBlock g s ((g.members - 1) - s % g.members) k = none)
    ∧ ∀ s j k d, stripOn g s j = some d → logicalBlock g s j k = some (s * stripeData g + d * stripBlocks g + k))

/-! ## Laws of the device -/

/-- Every law holds after a power-on reset. -/
def Obligations.LawsHoldAtReset : Prop :=
  NoticeLaw State.reset.link ∧ PlanLaw State.reset.plan ∧ AheadLaw State.reset.table ∧ LossLaw State.reset.losses
    ∧ PoolLaw State.reset.pool ∧ ChannelsLaw State.reset.chans ∧ LockLaw State.reset.locks
    ∧ QueueLaw State.reset.queue ∧ RateLaw State.reset ∧ SessionLaw State.reset ∧ LanesLaw State.reset ∧ HoldLaw State.reset
    ∧ PlaceLaw State.reset ∧ WriterLaw State.reset.writer

/-- Every step keeps the law of the notice set: no two pending notices of one kind and subject, each with its own place in the order of
first occurrence; and the law of the plan store: what is staged as valid is in range, what is active has passed its checks. -/
def Obligations.StepsKeepNoticeAndPlanLaws : Prop :=
  (∀ s t, NoticeLaw s.link → step s = .next t → NoticeLaw t.link) ∧ ∀ s t, PlanLaw s.plan → step s = .next t → PlanLaw t.plan

/-- Every step keeps the ahead set in strictly ascending order and at or below 256 stripes, and every stripe of it in an extent that is
not DONE, at or beyond its cursor. -/
def Obligations.StepsKeepAheadLaw : Prop :=
  (∀ s t, AheadLaw s.table → step s = .next t → AheadLaw t.table)
    ∧ ∀ s t, PlanLaw s.plan → SessionLaw s → AheadLaw s.table → PlaceLaw s → step s = .next t → PlaceLaw t

/-- Every step keeps the lost-strip list in strictly ascending stripe order and at or below 256 records, and the foreground queue at 32
requests or fewer, no two with one tag. -/
def Obligations.StepsKeepLossAndQueueLaws : Prop :=
  (∀ s t, LossLaw s.losses → step s = .next t → LossLaw t.losses) ∧ ∀ s t, QueueLaw s.queue → step s = .next t → QueueLaw t.queue

/-- Every step keeps all 384 buffers, each free, or held by one operation, and by one alone; every channel at four issued commands or
fewer, an error count of 255 or less, and a FAILED channel without commands; and the law of the lock table: one entry for one stripe, its
holders one EXCLUSIVE holder, or SHARED holders with at most one REBUILD holder. -/
def Obligations.StepsKeepPoolChannelAndLockLaws : Prop :=
  (∀ s t, PoolLaw s.pool → step s = .next t → PoolLaw t.pool)
    ∧ (∀ s t, ChannelsLaw s.chans → step s = .next t → ChannelsLaw t.chans)
    ∧ ∀ s t, LockLaw s.locks → step s = .next t → LockLaw t.locks

/-- Every step keeps every lane PARKED outside RUNNING and PAUSING, and what that rests on. -/
def Obligations.StepsKeepLanesLaw : Prop := ∀ s t, SessionLaw s → LanesLaw s → step s = .next t → LanesLaw t

/-- Every step keeps every ACTIVE extent under exactly the lane that holds it, each lane with one extent at most, none ACTIVE outside
RUNNING and PAUSING, and what that rests on. -/
def Obligations.StepsKeepHoldLaw : Prop := ∀ s t, SessionLaw s → LanesLaw s → HoldLaw s → step s = .next t → HoldLaw t

/-- Every step keeps the governor's levels as its rules give them, and the number of working lanes at or below the effective level. -/
def Obligations.StepsKeepRateLaw : Prop := ∀ s t, RateLaw s → step s = .next t → RateLaw t

/-- Every step keeps the long operation that fits the session state, the period timer in RUNNING alone, and the checkpoint reads in
RESTORING alone. -/
def Obligations.StepsKeepSessionLaw : Prop := ∀ s t, SessionLaw s → step s = .next t → SessionLaw t

end Slice0
end

