-- ==== Sys2Proof/Laws/Bytes.lean ====
section
/-! SUPPORT. Bytes and what they spell: numbers, blocks, and the bodies of section 11.1 (R173, R176, R178). -/

namespace Sys2Proof.Machine
open Sys2Proof

/-! ## Numbers and blocks -/

@[simp] theorem bytesToNat_concat (bs : List Byte) (b : Byte) : bytesToNat (bs ++ [b]) = bytesToNat bs * 256 + b.toNat := by
  simp [bytesToNat]

@[simp] theorem bigEndian_length (n v : Nat) : (bigEndian n v).length = n := by simp [bigEndian]

/-- The last byte of a number is its lowest, and the bytes before it are those of the rest. -/
theorem bigEndian_succ (n v : Nat) : bigEndian (n + 1) v = bigEndian n (v / 256) ++ [BitVec.ofNat 8 v] := by
  have shift (i : Nat) (h : i < n) : v >>> (8 * (n - i)) = (v / 256) >>> (8 * (n - 1 - i)) := by
    rw [show v / 256 = v >>> 8 by simp [Nat.shiftRight_eq_div_pow], ← Nat.shiftRight_add]
    congr 1; omega
  simp only [bigEndian, List.range_succ, List.map_append, List.map_cons, List.map_nil]
  congr 1
  · refine List.map_congr_left fun i hi => ?_
    rw [show n + 1 - 1 - i = n - i by omega, shift i (List.mem_range.mp hi)]
  · simp

/-- A number's bytes spell the number, cut to their length. -/
@[simp] theorem bytesToNat_bigEndian (n v : Nat) : bytesToNat (bigEndian n v) = v % 256 ^ n := by
  induction n generalizing v with
  | zero => simp [bigEndian, bytesToNat, Nat.mod_one]
  | succ n ih =>
    rw [bigEndian_succ, bytesToNat_concat, ih, BitVec.toNat_ofNat, show 256 ^ (n + 1) = 256 * 256 ^ n from Nat.pow_succ', Nat.mod_mul]
    omega

@[simp] theorem bytesOfBlock_length (b : Block) : (bytesOfBlock b).length = 4096 := by simp [bytesOfBlock]

/-- The bytes of a block are those of the number it stands for (R1). -/
theorem bytesOfBlock_bigEndian (b : Block) : bytesOfBlock b = bigEndian 4096 b.toNat := by
  refine List.map_congr_left fun i _ => ?_
  apply BitVec.eq_of_toNat_eq
  simp [blockByte, BitVec.extractLsb'_toNat]

/-- A word of n bytes is below the n-th power of 256. -/
theorem toNat_lt_bytes {n : Nat} (b : BitVec (8 * n)) : b.toNat < 256 ^ n := by
  have h := b.isLt
  rwa [Nat.pow_mul] at h

/-- A block's bytes make the block again. -/
@[simp] theorem blockOfBytes_bytesOfBlock (b : Block) : blockOfBytes (bytesOfBlock b) = b := by
  have small := toNat_lt_bytes (n := 4096) b
  unfold blockOfBytes
  rw [bytesOfBlock_length, bytesOfBlock_bigEndian, bytesToNat_bigEndian, Nat.mod_eq_of_lt small]
  simp

/-- A whole block's bytes at the front are its first block. -/
theorem blocksOfBytes_cons (first rest : List Byte) (h : first.length = 4096) :
    blocksOfBytes (first ++ rest) = blockOfBytes first :: blocksOfBytes rest := by
  have count : ((first ++ rest).length + 4095) / 4096 = (rest.length + 4095) / 4096 + 1 := by
    rw [List.length_append, h]; omega
  have behind (i : Nat) : (first ++ rest).drop (4096 * (i + 1)) = rest.drop (4096 * i) := by
    rw [List.drop_append, List.drop_eq_nil_of_le (by omega), h, List.nil_append,
      show 4096 * (i + 1) - 4096 = 4096 * i by omega]
  unfold blocksOfBytes
  rw [count, List.range_succ_eq_map]
  simp only [List.map_cons, List.map_map, List.cons.injEq]
  constructor
  · rw [Nat.mul_zero, List.drop_zero, List.take_left' h]
  · exact List.map_congr_left fun i _ => by simp only [Function.comp, Nat.succ_eq_add_one, behind]

/-- The bytes of blocks, one behind the other, are those blocks. -/
@[simp] theorem blocksOfBytes_flatMap (bs : List Block) : blocksOfBytes (bs.flatMap bytesOfBlock) = bs := by
  induction bs with
  | nil => rfl
  | cons b bs ih =>
    rw [List.flatMap_cons, blocksOfBytes_cons _ _ (bytesOfBlock_length b), ih, blockOfBytes_bytesOfBlock]

@[simp] theorem blocksBytes_length (bs : List Block) : (bs.flatMap bytesOfBlock).length = 4096 * bs.length := by
  induction bs with
  | nil => rfl
  | cons b bs ih => rw [List.flatMap_cons, List.length_append, bytesOfBlock_length, ih, List.length_cons]; omega

@[simp] theorem blocksOfBytes_length (bs : List Byte) : (blocksOfBytes bs).length = (bs.length + 4095) / 4096 := by
  simp [blocksOfBytes]

/-! ## The bodies that the manual lays out -/

@[simp] theorem runBytes_length (lba : BitVec 64) (count : BitVec 16) : (runBytes lba count).length = 16 := by simp [runBytes]

/-- The first eight bytes of a run's body are its LBA. -/
theorem runBytes_lba (lba : BitVec 64) (count : BitVec 16) (rest : List Byte) :
    bytesToNat ((runBytes lba count ++ rest).take 8) = lba.toNat := by
  rw [runBytes, List.append_assoc, List.append_assoc, List.take_left' (bigEndian_length 8 _), bytesToNat_bigEndian]
  exact Nat.mod_eq_of_lt lba.isLt

/-- The two bytes behind them are its count. -/
theorem runBytes_count (lba : BitVec 64) (count : BitVec 16) (rest : List Byte) :
    bytesToNat (((runBytes lba count ++ rest).drop 8).take 2) = count.toNat := by
  rw [runBytes, List.append_assoc, List.append_assoc, List.drop_left' (bigEndian_length 8 _),
    List.take_left' (bigEndian_length 2 _), bytesToNat_bigEndian]
  exact Nat.mod_eq_of_lt count.isLt

/-- A READ-BLOCKS body spells its fields. -/
@[simp] theorem readBody_runBytes (f : RunFields) : readBody (runBytes f.lba f.count) = some f := by
  have lba := runBytes_lba f.lba f.count []
  have count := runBytes_count f.lba f.count []
  rw [List.append_nil] at lba count
  simp [readBody, lba, count]

/-- A WRITE-BLOCKS body with as many blocks as its count spells its fields. -/
theorem writeBody_runBytes {f : WriteFields} (h : f.blocks.length = f.count.toNat) :
    writeBody (runBytes f.lba f.count ++ f.blocks.flatMap bytesOfBlock) = some f := by
  simp only [writeBody, runBytes_lba, runBytes_count, List.length_append, runBytes_length, blocksBytes_length]
  rw [if_pos (by omega), List.drop_left' (runBytes_length _ _)]
  simp

/-! ## Check 4 (R176) -/

/-- A READ-BLOCKS body parses by its length alone. -/
theorem readBody_isSome (bs : List Byte) : (readBody bs).isSome = true ↔ bs.length = 16 := by
  unfold readBody; split <;> simp_all

/-- A WRITE-BLOCKS body is read by its length and its count alone. -/
theorem writeBody_isSome (bs : List Byte) :
    (writeBody bs).isSome = true ↔ bs.length = 16 + 4096 * bytesToNat ((bs.drop 8).take 2) := by
  simp only [writeBody, Nat.mul_comm 4096]; split <;> simp_all

/-- A body that a frame may carry parses as a WRITE-BLOCKS by its length and its count alone. -/
theorem parses_writeBody {bs : List Byte} (h : bs.length ≤ 131136) :
    parses (.writeBlocks (writeBody bs)) = true ↔ bs.length = 16 + 4096 * bytesToNat ((bs.drop 8).take 2) := by
  generalize hc : bytesToNat ((bs.drop 8).take 2) = c
  by_cases e : bs.length = 16 + c * 4096
  · have small : c % 65536 = c := Nat.mod_eq_of_lt (by omega)
    simp only [parses, writeBody, hc, if_pos e, Option.any_some, blocksOfBytes_length, List.length_drop, BitVec.toNat_ofNat]
    simp only [show (2 : Nat) ^ 16 = 65536 from rfl, small, Bool.and_eq_true, decide_eq_true_eq]
    omega
  · simp only [parses, writeBody, hc, if_neg e, Option.any_none]
    constructor
    · simp
    · omega

/-- The bodies of the types the manual lays out: whether one parses is decided by its length, and for a WRITE-BLOCKS its count (R176). -/
theorem parses_requestOf (type : Byte) (bs : List Byte) :
    (type ∈ [0x01#8, 0x08#8, 0x09#8, 0x0A#8, 0x0B#8, 0x0C#8, 0x0D#8] → (parses (requestOf type bs) = true ↔ bs = []))
    ∧ (type = 0x10#8 → (parses (requestOf type bs) = true ↔ bs.length = 16))
    ∧ (type = 0x11#8 → bs.length ≤ 131136 →
      (parses (requestOf type bs) = true ↔ bs.length = 16 + 4096 * bytesToNat ((bs.drop 8).take 2))) := by
  refine ⟨fun h => ?_, fun h => ?_, fun h hl => ?_⟩
  · simp only [List.mem_cons, List.not_mem_nil, or_false] at h
    rcases h with rfl | rfl | rfl | rfl | rfl | rfl | rfl <;> simp [requestOf, parses, emptyBody]
  · subst h; simpa [requestOf, parses] using readBody_isSome bs
  · subst h; simpa [requestOf] using parses_writeBody hl

/-! ## Requests gathered as bytes -/

theorem openBytes_length (r : Request) : (openBytes r).length ≤ 131136 := List.length_take_le _ _

/-- A body of a known layout that is to be malformed does not parse, and a frame may carry it. -/
theorem malformedBody_spec {r : Request}
    (h : typeCode r ∈ [0x01#8, 0x08#8, 0x09#8, 0x0A#8, 0x0B#8, 0x0C#8, 0x0D#8] ∨ typeCode r = 0x10#8 ∨ typeCode r = 0x11#8) :
    parses (requestOf (typeCode r) (malformedBody r)) = false ∧ (malformedBody r).length ≤ 131136 := by
  have long := openBytes_length r
  unfold malformedBody
  generalize openBytes r = bs at long ⊢
  generalize Config.surplusByte r = b
  by_cases p : parses (requestOf (typeCode r) bs) = true
  · rw [if_pos p, ← Bool.not_eq_true]
    have empty := parses_requestOf (typeCode r) bs
    have more := parses_requestOf (typeCode r) (bs ++ [b])
    rcases h with h | h | h
    · have : bs = [] := (empty.1 h).mp p
      subst this
      exact ⟨fun q => absurd ((more.1 h).mp q) (by simp), by simp⟩
    · have l : bs.length = 16 := (empty.2.1 h).mp p
      exact ⟨fun q => absurd ((more.2.1 h).mp q) (by simp [l]), by simp [l]⟩
    · have l := (empty.2.2 h long).mp p
      have two : ((bs ++ [b]).drop 8).take 2 = (bs.drop 8).take 2 := by
        rw [List.drop_append_of_le_length (by omega), List.take_append_of_le_length (by rw [List.length_drop]; omega)]
      have short : (bs ++ [b]).length ≤ 131136 := by rw [List.length_append, List.length_singleton]; omega
      refine ⟨fun q => ?_, short⟩
      have := (more.2.2 h short).mp q
      rw [two, List.length_append, List.length_singleton] at this
      omega
  · rw [if_neg p]
    exact ⟨by simpa using p, long⟩

/-- A malformed body of a type whose body is empty is not empty. -/
theorem emptyBody_malformed {r : Request} (h : typeCode r ∈ [0x01#8, 0x08#8, 0x09#8, 0x0A#8, 0x0B#8, 0x0C#8, 0x0D#8]) :
    emptyBody (malformedBody r) = none := by
  have bad := (malformedBody_spec (.inl h)).1
  rw [← Bool.not_eq_true, (parses_requestOf (typeCode r) _).1 h] at bad
  simp [emptyBody, bad]

/-- A malformed READ-BLOCKS body is none. -/
theorem readBody_malformed {r : Request} (h : typeCode r = 0x10#8) : readBody (malformedBody r) = none := by
  have bad := (malformedBody_spec (.inr (.inl h))).1
  rw [← Bool.not_eq_true, (parses_requestOf (typeCode r) _).2.1 h, ← readBody_isSome] at bad
  exact Option.not_isSome_iff_eq_none.mp bad

/-- A malformed WRITE-BLOCKS body is none. -/
theorem writeBody_malformed {r : Request} (h : typeCode r = 0x11#8) : writeBody (malformedBody r) = none := by
  have ⟨bad, short⟩ := malformedBody_spec (.inr (.inr h))
  rw [← Bool.not_eq_true, (parses_requestOf (typeCode r) _).2.2 h short, ← writeBody_isSome] at bad
  exact Option.not_isSome_iff_eq_none.mp bad

end Sys2Proof.Machine
end

