-- ==== Sys2Proof/Laws/FramesParts.lean ====
section
/-! SUPPORT. What the operations of the parts: the link unit, the monitors, the extent table, the governor, the locks, the pool, the channels leave unchanged: one lemma for each operation, over every field of the state
that it never touches. -/

namespace Sys2Proof.Machine
open Sys2Proof

/-- A fold of an operation keeps what the operation keeps. -/
theorem foldl_keeps {α β : Type} (π : State → β) {f : State → α → State} (h : ∀ t x, π (f t x) = π t) (l : List α)
    (s : State) : π (l.foldl f s) = π s := by
  induction l generalizing s with
  | nil => rfl
  | cons a l ih => simp [ih, h]

/-- Choosing the next record changes no reply's standing, nor what the link has received. -/
@[simp] theorem chooseNext_frame (p : PolicyGroup) (l : ControlLink) :
    (chooseNext p l).hunting = l.hunting ∧ (chooseNext p l).gathered = l.gathered ∧ (chooseNext p l).held = l.held ∧
    (chooseNext p l).resetCause = l.resetCause ∧ (chooseNext p l).sent = l.sent ∧ (chooseNext p l).nextOrder = l.nextOrder ∧
    owed (chooseNext p l) = l.replies := by
  unfold chooseNext
  split
  · next h => simp [owed, h]
  · next h => split <;> simp [owed, h]

/-- An IDLE sender's choice likewise. -/
@[simp] theorem kick_frame (p : PolicyGroup) (l : ControlLink) :
    (kick p l).hunting = l.hunting ∧ (kick p l).gathered = l.gathered ∧ (kick p l).held = l.held ∧
    (kick p l).resetCause = l.resetCause ∧ (kick p l).sent = l.sent ∧ (kick p l).nextOrder = l.nextOrder ∧
    owed (kick p l) = owed l := by
  unfold kick
  split
  · next h =>
    have : owed l = l.replies := by simp [owed, h]
    simp [this]
  · simp

/-- An occurrence changes the notice set and the order alone. -/
@[simp] theorem takeOccurrence_frame (p : PolicyGroup) (k : NoticeKind) (subject : Nat) (v : NoticeValue) (l : ControlLink) :
    (takeOccurrence p k subject v l).hunting = l.hunting ∧ (takeOccurrence p k subject v l).gathered = l.gathered ∧
    (takeOccurrence p k subject v l).held = l.held ∧ (takeOccurrence p k subject v l).resetCause = l.resetCause ∧
    (takeOccurrence p k subject v l).sent = l.sent ∧ (takeOccurrence p k subject v l).replies = l.replies ∧
    (takeOccurrence p k subject v l).sender = l.sender ∧ owed (takeOccurrence p k subject v l) = owed l := by
  unfold takeOccurrence
  split
  · simp [owed]
  · split <;> simp [owed]

/-- A reply behind the replies is owed last. -/
@[simp] theorem owed_append (l : ControlLink) (r : Reply) : owed { l with replies := l.replies ++ [r] } = owed l ++ [r] := by
  unfold owed
  split <;> rename_i h <;> simp_all

/-- A reply handed over is owed behind those owed before. -/
@[simp] theorem handReply_owed (r : Reply) (s : State) : owed (handReply r s).link = owed s.link ++ [r] := by simp [handReply]


@[simp] theorem raiseNotice_frame (k : NoticeKind) (subject : Nat) (v : NoticeValue) (s : State) :
    (raiseNotice k subject v s).pending = s.pending ∧ (raiseNotice k subject v s).now = s.now ∧
    (raiseNotice k subject v s).plan = s.plan ∧ (raiseNotice k subject v s).session = s.session ∧
    (raiseNotice k subject v s).table = s.table ∧ (raiseNotice k subject v s).lanes = s.lanes ∧
    (raiseNotice k subject v s).governor = s.governor ∧ (raiseNotice k subject v s).locks = s.locks ∧
    (raiseNotice k subject v s).pool = s.pool ∧ (raiseNotice k subject v s).queue = s.queue ∧
    (raiseNotice k subject v s).chans = s.chans ∧ (raiseNotice k subject v s).stripSent = s.stripSent ∧
    (raiseNotice k subject v s).losses = s.losses ∧ (raiseNotice k subject v s).writer = s.writer ∧
    (raiseNotice k subject v s).monitors = s.monitors ∧ (raiseNotice k subject v s).mail = s.mail ∧
    (raiseNotice k subject v s).link.hunting = s.link.hunting ∧ (raiseNotice k subject v s).link.gathered = s.link.gathered ∧
    (raiseNotice k subject v s).link.held = s.link.held ∧ (raiseNotice k subject v s).link.resetCause = s.link.resetCause ∧
    (raiseNotice k subject v s).link.sent = s.link.sent ∧ owed (raiseNotice k subject v s).link = owed s.link := by
  simp [raiseNotice]

@[simp] theorem handReply_frame (r : Reply) (s : State) :
    (handReply r s).pending = s.pending ∧ (handReply r s).now = s.now ∧ (handReply r s).plan = s.plan ∧
    (handReply r s).session = s.session ∧ (handReply r s).table = s.table ∧ (handReply r s).lanes = s.lanes ∧
    (handReply r s).governor = s.governor ∧ (handReply r s).locks = s.locks ∧ (handReply r s).pool = s.pool ∧
    (handReply r s).queue = s.queue ∧ (handReply r s).chans = s.chans ∧ (handReply r s).stripSent = s.stripSent ∧
    (handReply r s).losses = s.losses ∧ (handReply r s).writer = s.writer ∧ (handReply r s).monitors = s.monitors ∧
    (handReply r s).mail = s.mail ∧ (handReply r s).link.hunting = s.link.hunting ∧ (handReply r s).link.gathered = s.link.gathered ∧
    (handReply r s).link.held = s.link.held ∧ (handReply r s).link.resetCause = s.link.resetCause ∧
    (handReply r s).link.sent = s.link.sent := by
  simp [handReply]

@[simp] theorem answer_frame (tag : Tag) (type : Byte) (a : Answer) (r : Result) (s : State) :
    (answer tag type a r s).pending = s.pending ∧ (answer tag type a r s).now = s.now ∧ (answer tag type a r s).plan = s.plan ∧
    (answer tag type a r s).session = s.session ∧ (answer tag type a r s).table = s.table ∧ (answer tag type a r s).lanes = s.lanes ∧
    (answer tag type a r s).governor = s.governor ∧ (answer tag type a r s).locks = s.locks ∧ (answer tag type a r s).pool = s.pool ∧
    (answer tag type a r s).queue = s.queue ∧ (answer tag type a r s).chans = s.chans ∧
    (answer tag type a r s).stripSent = s.stripSent ∧ (answer tag type a r s).losses = s.losses ∧
    (answer tag type a r s).writer = s.writer ∧ (answer tag type a r s).monitors = s.monitors ∧ (answer tag type a r s).mail = s.mail ∧
    (answer tag type a r s).link.hunting = s.link.hunting ∧ (answer tag type a r s).link.gathered = s.link.gathered ∧
    (answer tag type a r s).link.held = s.link.held ∧ (answer tag type a r s).link.resetCause = s.link.resetCause ∧
    (answer tag type a r s).link.sent = s.link.sent := by
  simp [answer]

@[simp] theorem refuse_frame (tag : Tag) (type : Byte) (why : Reason) (s : State) :
    (refuse tag type why s).pending = s.pending ∧ (refuse tag type why s).now = s.now ∧ (refuse tag type why s).plan = s.plan ∧
    (refuse tag type why s).session = s.session ∧ (refuse tag type why s).table = s.table ∧ (refuse tag type why s).lanes = s.lanes ∧
    (refuse tag type why s).governor = s.governor ∧ (refuse tag type why s).locks = s.locks ∧ (refuse tag type why s).pool = s.pool ∧
    (refuse tag type why s).queue = s.queue ∧ (refuse tag type why s).chans = s.chans ∧
    (refuse tag type why s).stripSent = s.stripSent ∧ (refuse tag type why s).losses = s.losses ∧
    (refuse tag type why s).writer = s.writer ∧ (refuse tag type why s).monitors = s.monitors ∧ (refuse tag type why s).mail = s.mail ∧
    (refuse tag type why s).link.hunting = s.link.hunting ∧ (refuse tag type why s).link.gathered = s.link.gathered ∧
    (refuse tag type why s).link.held = s.link.held ∧ (refuse tag type why s).link.resetCause = s.link.resetCause ∧
    (refuse tag type why s).link.sent = s.link.sent := by
  simp [refuse]

@[simp] theorem answerLong_frame (a : Answer) (r : Result) (s : State) :
    (answerLong a r s).pending = s.pending ∧ (answerLong a r s).now = s.now ∧ (answerLong a r s).plan = s.plan ∧
    (answerLong a r s).table = s.table ∧ (answerLong a r s).lanes = s.lanes ∧ (answerLong a r s).governor = s.governor ∧
    (answerLong a r s).locks = s.locks ∧ (answerLong a r s).pool = s.pool ∧ (answerLong a r s).queue = s.queue ∧
    (answerLong a r s).chans = s.chans ∧ (answerLong a r s).stripSent = s.stripSent ∧ (answerLong a r s).losses = s.losses ∧
    (answerLong a r s).writer = s.writer ∧ (answerLong a r s).monitors = s.monitors ∧ (answerLong a r s).mail = s.mail ∧
    (answerLong a r s).link.hunting = s.link.hunting ∧ (answerLong a r s).link.gathered = s.link.gathered ∧
    (answerLong a r s).link.held = s.link.held ∧ (answerLong a r s).link.resetCause = s.link.resetCause ∧
    (answerLong a r s).link.sent = s.link.sent := by
  unfold answerLong
  try dsimp only
  (repeat' split) <;> simp

@[simp] theorem evalHold_frame (s : State) :
    (evalHold s).pending = s.pending ∧ (evalHold s).now = s.now ∧ (evalHold s).plan = s.plan ∧ (evalHold s).session = s.session ∧
    (evalHold s).lanes = s.lanes ∧ (evalHold s).governor = s.governor ∧ (evalHold s).locks = s.locks ∧ (evalHold s).pool = s.pool ∧
    (evalHold s).queue = s.queue ∧ (evalHold s).chans = s.chans ∧ (evalHold s).stripSent = s.stripSent ∧
    (evalHold s).losses = s.losses ∧ (evalHold s).writer = s.writer ∧ (evalHold s).monitors = s.monitors ∧ (evalHold s).mail = s.mail ∧
    (evalHold s).link.hunting = s.link.hunting ∧ (evalHold s).link.gathered = s.link.gathered ∧ (evalHold s).link.held = s.link.held ∧
    (evalHold s).link.resetCause = s.link.resetCause ∧ (evalHold s).link.sent = s.link.sent ∧ owed (evalHold s).link = owed s.link := by
  unfold evalHold
  try dsimp only
  (repeat' split) <;> simp

@[simp] theorem signalGovernor_frame (s : State) :
    (signalGovernor s).pending = s.pending ∧ (signalGovernor s).now = s.now ∧ (signalGovernor s).plan = s.plan ∧
    (signalGovernor s).session = s.session ∧ (signalGovernor s).table = s.table ∧ (signalGovernor s).lanes = s.lanes ∧
    (signalGovernor s).governor = s.governor ∧ (signalGovernor s).locks = s.locks ∧ (signalGovernor s).pool = s.pool ∧
    (signalGovernor s).queue = s.queue ∧ (signalGovernor s).chans = s.chans ∧ (signalGovernor s).stripSent = s.stripSent ∧
    (signalGovernor s).losses = s.losses ∧ (signalGovernor s).writer = s.writer ∧ (signalGovernor s).monitors = s.monitors ∧
    (signalGovernor s).link = s.link ∧ (signalGovernor s).mail.endings = s.mail.endings ∧ (signalGovernor s).mail.told = s.mail.told ∧
    (signalGovernor s).mail.claims = s.mail.claims ∧ (signalGovernor s).mail.answers = s.mail.answers ∧
    (signalGovernor s).mail.grants = s.mail.grants ∧ (signalGovernor s).mail.reservations = s.mail.reservations ∧
    (signalGovernor s).mail.triggers = s.mail.triggers := by
  simp [signalGovernor]

@[simp] theorem overflow_frame (i : Fin 4) (s : State) :
    (overflow i s).pending = s.pending ∧ (overflow i s).now = s.now ∧ (overflow i s).plan = s.plan ∧
    (overflow i s).session = s.session ∧ (overflow i s).table = s.table ∧ (overflow i s).lanes = s.lanes ∧
    (overflow i s).governor = s.governor ∧ (overflow i s).locks = s.locks ∧ (overflow i s).pool = s.pool ∧
    (overflow i s).queue = s.queue ∧ (overflow i s).chans = s.chans ∧ (overflow i s).stripSent = s.stripSent ∧
    (overflow i s).losses = s.losses ∧ (overflow i s).writer = s.writer ∧ (overflow i s).monitors = s.monitors ∧
    (overflow i s).mail.endings = s.mail.endings ∧ (overflow i s).mail.told = s.mail.told ∧
    (overflow i s).mail.claims = s.mail.claims ∧ (overflow i s).mail.answers = s.mail.answers ∧
    (overflow i s).mail.grants = s.mail.grants ∧ (overflow i s).mail.reservations = s.mail.reservations ∧
    (overflow i s).mail.triggers = s.mail.triggers ∧ (overflow i s).link.hunting = s.link.hunting ∧
    (overflow i s).link.gathered = s.link.gathered ∧ (overflow i s).link.held = s.link.held ∧
    (overflow i s).link.resetCause = s.link.resetCause ∧ (overflow i s).link.sent = s.link.sent ∧
    owed (overflow i s).link = owed s.link := by
  unfold overflow
  try dsimp only
  (repeat' split) <;> simp

@[simp] theorem offerEvent_frame (e : EventKind) (c : Option Chan) (i : Fin 4) (s : State) :
    (offerEvent e c i s).pending = s.pending ∧ (offerEvent e c i s).now = s.now ∧ (offerEvent e c i s).plan = s.plan ∧
    (offerEvent e c i s).session = s.session ∧ (offerEvent e c i s).table = s.table ∧ (offerEvent e c i s).lanes = s.lanes ∧
    (offerEvent e c i s).governor = s.governor ∧ (offerEvent e c i s).locks = s.locks ∧ (offerEvent e c i s).pool = s.pool ∧
    (offerEvent e c i s).queue = s.queue ∧ (offerEvent e c i s).chans = s.chans ∧ (offerEvent e c i s).stripSent = s.stripSent ∧
    (offerEvent e c i s).losses = s.losses ∧ (offerEvent e c i s).writer = s.writer ∧
    (offerEvent e c i s).mail.endings = s.mail.endings ∧ (offerEvent e c i s).mail.told = s.mail.told ∧
    (offerEvent e c i s).mail.claims = s.mail.claims ∧ (offerEvent e c i s).mail.answers = s.mail.answers ∧
    (offerEvent e c i s).mail.grants = s.mail.grants ∧ (offerEvent e c i s).mail.reservations = s.mail.reservations ∧
    (offerEvent e c i s).mail.triggers = s.mail.triggers ∧ (offerEvent e c i s).link.hunting = s.link.hunting ∧
    (offerEvent e c i s).link.gathered = s.link.gathered ∧ (offerEvent e c i s).link.held = s.link.held ∧
    (offerEvent e c i s).link.resetCause = s.link.resetCause ∧ (offerEvent e c i s).link.sent = s.link.sent ∧
    owed (offerEvent e c i s).link = owed s.link := by
  unfold offerEvent
  try dsimp only
  (repeat' split) <;> simp

@[simp] theorem raiseEvent_frame (e : EventKind) (c : Option Chan) (s : State) :
    (raiseEvent e c s).pending = s.pending ∧ (raiseEvent e c s).now = s.now ∧ (raiseEvent e c s).plan = s.plan ∧
    (raiseEvent e c s).session = s.session ∧ (raiseEvent e c s).table = s.table ∧ (raiseEvent e c s).lanes = s.lanes ∧
    (raiseEvent e c s).governor = s.governor ∧ (raiseEvent e c s).locks = s.locks ∧ (raiseEvent e c s).pool = s.pool ∧
    (raiseEvent e c s).queue = s.queue ∧ (raiseEvent e c s).chans = s.chans ∧ (raiseEvent e c s).stripSent = s.stripSent ∧
    (raiseEvent e c s).losses = s.losses ∧ (raiseEvent e c s).writer = s.writer ∧ (raiseEvent e c s).mail.endings = s.mail.endings ∧
    (raiseEvent e c s).mail.told = s.mail.told ∧ (raiseEvent e c s).mail.claims = s.mail.claims ∧
    (raiseEvent e c s).mail.answers = s.mail.answers ∧ (raiseEvent e c s).mail.grants = s.mail.grants ∧
    (raiseEvent e c s).mail.reservations = s.mail.reservations ∧ (raiseEvent e c s).mail.triggers = s.mail.triggers ∧
    (raiseEvent e c s).link.hunting = s.link.hunting ∧ (raiseEvent e c s).link.gathered = s.link.gathered ∧
    (raiseEvent e c s).link.held = s.link.held ∧ (raiseEvent e c s).link.resetCause = s.link.resetCause ∧
    (raiseEvent e c s).link.sent = s.link.sent ∧ owed (raiseEvent e c s).link = owed s.link := by
  simp [raiseEvent]

@[simp] theorem setExtent_frame (x : Nat) (r : ExtentRec) (s : State) :
    (setExtent x r s).pending = s.pending ∧ (setExtent x r s).now = s.now ∧ (setExtent x r s).plan = s.plan ∧
    (setExtent x r s).session = s.session ∧ (setExtent x r s).lanes = s.lanes ∧ (setExtent x r s).governor = s.governor ∧
    (setExtent x r s).locks = s.locks ∧ (setExtent x r s).pool = s.pool ∧ (setExtent x r s).queue = s.queue ∧
    (setExtent x r s).chans = s.chans ∧ (setExtent x r s).stripSent = s.stripSent ∧ (setExtent x r s).losses = s.losses ∧
    (setExtent x r s).writer = s.writer ∧ (setExtent x r s).monitors = s.monitors ∧ (setExtent x r s).link = s.link ∧
    (setExtent x r s).mail = s.mail := by
  simp [setExtent]

@[simp] theorem takeClaim_frame (g : ArrayGroup) (l : Lane) (s : State) :
    (takeClaim g l s).2.pending = s.pending ∧ (takeClaim g l s).2.now = s.now ∧ (takeClaim g l s).2.plan = s.plan ∧
    (takeClaim g l s).2.session = s.session ∧ (takeClaim g l s).2.lanes = s.lanes ∧ (takeClaim g l s).2.governor = s.governor ∧
    (takeClaim g l s).2.locks = s.locks ∧ (takeClaim g l s).2.pool = s.pool ∧ (takeClaim g l s).2.queue = s.queue ∧
    (takeClaim g l s).2.chans = s.chans ∧ (takeClaim g l s).2.stripSent = s.stripSent ∧ (takeClaim g l s).2.losses = s.losses ∧
    (takeClaim g l s).2.writer = s.writer ∧ (takeClaim g l s).2.monitors = s.monitors ∧ (takeClaim g l s).2.mail = s.mail ∧
    (takeClaim g l s).2.link.hunting = s.link.hunting ∧ (takeClaim g l s).2.link.gathered = s.link.gathered ∧
    (takeClaim g l s).2.link.held = s.link.held ∧ (takeClaim g l s).2.link.resetCause = s.link.resetCause ∧
    (takeClaim g l s).2.link.sent = s.link.sent ∧ owed (takeClaim g l s).2.link = owed s.link := by
  unfold takeClaim
  try dsimp only
  (repeat' split) <;> simp

@[simp] theorem handTrigger_frame (s : State) :
    (handTrigger s).pending = s.pending ∧ (handTrigger s).now = s.now ∧ (handTrigger s).plan = s.plan ∧
    (handTrigger s).session = s.session ∧ (handTrigger s).table = s.table ∧ (handTrigger s).lanes = s.lanes ∧
    (handTrigger s).governor = s.governor ∧ (handTrigger s).locks = s.locks ∧ (handTrigger s).pool = s.pool ∧
    (handTrigger s).queue = s.queue ∧ (handTrigger s).chans = s.chans ∧ (handTrigger s).stripSent = s.stripSent ∧
    (handTrigger s).losses = s.losses ∧ (handTrigger s).writer = s.writer ∧ (handTrigger s).monitors = s.monitors ∧
    (handTrigger s).link = s.link ∧ (handTrigger s).mail.endings = s.mail.endings ∧ (handTrigger s).mail.told = s.mail.told ∧
    (handTrigger s).mail.claims = s.mail.claims ∧ (handTrigger s).mail.answers = s.mail.answers ∧
    (handTrigger s).mail.grants = s.mail.grants ∧ (handTrigger s).mail.reservations = s.mail.reservations ∧
    (handTrigger s).mail.signals = s.mail.signals := by
  simp [handTrigger]

@[simp] theorem finishExtent_frame (x : Nat) (s : State) :
    (finishExtent x s).pending = s.pending ∧ (finishExtent x s).now = s.now ∧ (finishExtent x s).plan = s.plan ∧
    (finishExtent x s).session = s.session ∧ (finishExtent x s).lanes = s.lanes ∧ (finishExtent x s).governor = s.governor ∧
    (finishExtent x s).locks = s.locks ∧ (finishExtent x s).pool = s.pool ∧ (finishExtent x s).queue = s.queue ∧
    (finishExtent x s).chans = s.chans ∧ (finishExtent x s).stripSent = s.stripSent ∧ (finishExtent x s).losses = s.losses ∧
    (finishExtent x s).writer = s.writer ∧ (finishExtent x s).monitors = s.monitors ∧
    (finishExtent x s).mail.endings = s.mail.endings ∧ (finishExtent x s).mail.told = s.mail.told ∧
    (finishExtent x s).mail.claims = s.mail.claims ∧ (finishExtent x s).mail.answers = s.mail.answers ∧
    (finishExtent x s).mail.grants = s.mail.grants ∧ (finishExtent x s).mail.reservations = s.mail.reservations ∧
    (finishExtent x s).mail.signals = s.mail.signals ∧ (finishExtent x s).link.hunting = s.link.hunting ∧
    (finishExtent x s).link.gathered = s.link.gathered ∧ (finishExtent x s).link.held = s.link.held ∧
    (finishExtent x s).link.resetCause = s.link.resetCause ∧ (finishExtent x s).link.sent = s.link.sent ∧
    owed (finishExtent x s).link = owed s.link := by
  unfold finishExtent
  try dsimp only
  (repeat' split) <;> simp

@[simp] theorem advanceCursor_frame (g : ArrayGroup) (x : Nat) (s : State) :
    (advanceCursor g x s).2.pending = s.pending ∧ (advanceCursor g x s).2.now = s.now ∧ (advanceCursor g x s).2.plan = s.plan ∧
    (advanceCursor g x s).2.session = s.session ∧ (advanceCursor g x s).2.lanes = s.lanes ∧
    (advanceCursor g x s).2.governor = s.governor ∧ (advanceCursor g x s).2.locks = s.locks ∧ (advanceCursor g x s).2.pool = s.pool ∧
    (advanceCursor g x s).2.queue = s.queue ∧ (advanceCursor g x s).2.chans = s.chans ∧
    (advanceCursor g x s).2.stripSent = s.stripSent ∧ (advanceCursor g x s).2.losses = s.losses ∧
    (advanceCursor g x s).2.writer = s.writer ∧ (advanceCursor g x s).2.monitors = s.monitors ∧
    (advanceCursor g x s).2.mail.endings = s.mail.endings ∧ (advanceCursor g x s).2.mail.told = s.mail.told ∧
    (advanceCursor g x s).2.mail.claims = s.mail.claims ∧ (advanceCursor g x s).2.mail.answers = s.mail.answers ∧
    (advanceCursor g x s).2.mail.grants = s.mail.grants ∧ (advanceCursor g x s).2.mail.reservations = s.mail.reservations ∧
    (advanceCursor g x s).2.mail.signals = s.mail.signals ∧ (advanceCursor g x s).2.link.hunting = s.link.hunting ∧
    (advanceCursor g x s).2.link.gathered = s.link.gathered ∧ (advanceCursor g x s).2.link.held = s.link.held ∧
    (advanceCursor g x s).2.link.resetCause = s.link.resetCause ∧ (advanceCursor g x s).2.link.sent = s.link.sent ∧
    owed (advanceCursor g x s).2.link = owed s.link := by
  unfold advanceCursor
  try dsimp only
  (repeat' split) <;> simp

@[simp] theorem addAhead_frame (g : ArrayGroup) (stripe : Nat) (s : State) :
    (addAhead g stripe s).pending = s.pending ∧ (addAhead g stripe s).now = s.now ∧ (addAhead g stripe s).plan = s.plan ∧
    (addAhead g stripe s).session = s.session ∧ (addAhead g stripe s).lanes = s.lanes ∧ (addAhead g stripe s).governor = s.governor ∧
    (addAhead g stripe s).locks = s.locks ∧ (addAhead g stripe s).pool = s.pool ∧ (addAhead g stripe s).queue = s.queue ∧
    (addAhead g stripe s).chans = s.chans ∧ (addAhead g stripe s).stripSent = s.stripSent ∧ (addAhead g stripe s).losses = s.losses ∧
    (addAhead g stripe s).writer = s.writer ∧ (addAhead g stripe s).monitors = s.monitors ∧ (addAhead g stripe s).link = s.link ∧
    (addAhead g stripe s).mail = s.mail := by
  unfold addAhead
  try dsimp only
  (repeat' split) <;> simp

@[simp] theorem releaseRecord_frame (x : Nat) (s : State) :
    (releaseRecord x s).pending = s.pending ∧ (releaseRecord x s).now = s.now ∧ (releaseRecord x s).plan = s.plan ∧
    (releaseRecord x s).session = s.session ∧ (releaseRecord x s).lanes = s.lanes ∧ (releaseRecord x s).governor = s.governor ∧
    (releaseRecord x s).locks = s.locks ∧ (releaseRecord x s).pool = s.pool ∧ (releaseRecord x s).queue = s.queue ∧
    (releaseRecord x s).chans = s.chans ∧ (releaseRecord x s).stripSent = s.stripSent ∧ (releaseRecord x s).losses = s.losses ∧
    (releaseRecord x s).writer = s.writer ∧ (releaseRecord x s).monitors = s.monitors ∧ (releaseRecord x s).mail = s.mail ∧
    (releaseRecord x s).link.hunting = s.link.hunting ∧ (releaseRecord x s).link.gathered = s.link.gathered ∧
    (releaseRecord x s).link.held = s.link.held ∧ (releaseRecord x s).link.resetCause = s.link.resetCause ∧
    (releaseRecord x s).link.sent = s.link.sent ∧ owed (releaseRecord x s).link = owed s.link := by
  unfold releaseRecord
  try dsimp only
  (repeat' split) <;> simp

@[simp] theorem setLane_frame (l : Lane) (r : LaneRec) (s : State) :
    (setLane l r s).pending = s.pending ∧ (setLane l r s).now = s.now ∧ (setLane l r s).plan = s.plan ∧
    (setLane l r s).session = s.session ∧ (setLane l r s).table = s.table ∧ (setLane l r s).governor = s.governor ∧
    (setLane l r s).locks = s.locks ∧ (setLane l r s).pool = s.pool ∧ (setLane l r s).queue = s.queue ∧
    (setLane l r s).chans = s.chans ∧ (setLane l r s).stripSent = s.stripSent ∧ (setLane l r s).losses = s.losses ∧
    (setLane l r s).writer = s.writer ∧ (setLane l r s).monitors = s.monitors ∧ (setLane l r s).link = s.link ∧
    (setLane l r s).mail = s.mail := by
  simp [setLane]

@[simp] theorem claimLane_frame (l : Lane) (s : State) :
    (claimLane l s).pending = s.pending ∧ (claimLane l s).now = s.now ∧ (claimLane l s).plan = s.plan ∧
    (claimLane l s).session = s.session ∧ (claimLane l s).table = s.table ∧ (claimLane l s).governor = s.governor ∧
    (claimLane l s).locks = s.locks ∧ (claimLane l s).pool = s.pool ∧ (claimLane l s).queue = s.queue ∧
    (claimLane l s).chans = s.chans ∧ (claimLane l s).stripSent = s.stripSent ∧ (claimLane l s).losses = s.losses ∧
    (claimLane l s).writer = s.writer ∧ (claimLane l s).monitors = s.monitors ∧ (claimLane l s).link = s.link ∧
    (claimLane l s).mail.endings = s.mail.endings ∧ (claimLane l s).mail.told = s.mail.told ∧
    (claimLane l s).mail.answers = s.mail.answers ∧ (claimLane l s).mail.grants = s.mail.grants ∧
    (claimLane l s).mail.reservations = s.mail.reservations ∧ (claimLane l s).mail.triggers = s.mail.triggers ∧
    (claimLane l s).mail.signals = s.mail.signals := by
  simp [claimLane]

@[simp] theorem wakeOne_frame (s : State) :
    (wakeOne s).pending = s.pending ∧ (wakeOne s).now = s.now ∧ (wakeOne s).plan = s.plan ∧ (wakeOne s).session = s.session ∧
    (wakeOne s).table = s.table ∧ (wakeOne s).governor = s.governor ∧ (wakeOne s).locks = s.locks ∧ (wakeOne s).pool = s.pool ∧
    (wakeOne s).queue = s.queue ∧ (wakeOne s).chans = s.chans ∧ (wakeOne s).stripSent = s.stripSent ∧ (wakeOne s).losses = s.losses ∧
    (wakeOne s).writer = s.writer ∧ (wakeOne s).monitors = s.monitors ∧ (wakeOne s).link = s.link ∧
    (wakeOne s).mail.endings = s.mail.endings ∧ (wakeOne s).mail.told = s.mail.told ∧ (wakeOne s).mail.answers = s.mail.answers ∧
    (wakeOne s).mail.grants = s.mail.grants ∧ (wakeOne s).mail.reservations = s.mail.reservations ∧
    (wakeOne s).mail.triggers = s.mail.triggers ∧ (wakeOne s).mail.signals = s.mail.signals := by
  unfold wakeOne
  try dsimp only
  (repeat' split) <;> simp

@[simp] theorem wakeLanes_frame (s : State) :
    (wakeLanes s).pending = s.pending ∧ (wakeLanes s).now = s.now ∧ (wakeLanes s).plan = s.plan ∧ (wakeLanes s).session = s.session ∧
    (wakeLanes s).table = s.table ∧ (wakeLanes s).governor = s.governor ∧ (wakeLanes s).locks = s.locks ∧ (wakeLanes s).pool = s.pool ∧
    (wakeLanes s).queue = s.queue ∧ (wakeLanes s).chans = s.chans ∧ (wakeLanes s).stripSent = s.stripSent ∧
    (wakeLanes s).losses = s.losses ∧ (wakeLanes s).writer = s.writer ∧ (wakeLanes s).monitors = s.monitors ∧
    (wakeLanes s).link = s.link ∧ (wakeLanes s).mail.endings = s.mail.endings ∧ (wakeLanes s).mail.told = s.mail.told ∧
    (wakeLanes s).mail.answers = s.mail.answers ∧ (wakeLanes s).mail.grants = s.mail.grants ∧
    (wakeLanes s).mail.reservations = s.mail.reservations ∧ (wakeLanes s).mail.triggers = s.mail.triggers ∧
    (wakeLanes s).mail.signals = s.mail.signals := by
  simp [wakeLanes]

@[simp] theorem setEffective_frame (n : Nat) (s : State) :
    (setEffective n s).pending = s.pending ∧ (setEffective n s).now = s.now ∧ (setEffective n s).plan = s.plan ∧
    (setEffective n s).session = s.session ∧ (setEffective n s).table = s.table ∧ (setEffective n s).lanes = s.lanes ∧
    (setEffective n s).locks = s.locks ∧ (setEffective n s).pool = s.pool ∧ (setEffective n s).queue = s.queue ∧
    (setEffective n s).chans = s.chans ∧ (setEffective n s).stripSent = s.stripSent ∧ (setEffective n s).losses = s.losses ∧
    (setEffective n s).writer = s.writer ∧ (setEffective n s).monitors = s.monitors ∧ (setEffective n s).mail = s.mail ∧
    (setEffective n s).link.hunting = s.link.hunting ∧ (setEffective n s).link.gathered = s.link.gathered ∧
    (setEffective n s).link.held = s.link.held ∧ (setEffective n s).link.resetCause = s.link.resetCause ∧
    (setEffective n s).link.sent = s.link.sent ∧ owed (setEffective n s).link = owed s.link := by
  simp [setEffective]

@[simp] theorem retarget_frame (s : State) :
    (retarget s).pending = s.pending ∧ (retarget s).now = s.now ∧ (retarget s).plan = s.plan ∧ (retarget s).session = s.session ∧
    (retarget s).table = s.table ∧ (retarget s).locks = s.locks ∧ (retarget s).pool = s.pool ∧ (retarget s).queue = s.queue ∧
    (retarget s).chans = s.chans ∧ (retarget s).stripSent = s.stripSent ∧ (retarget s).losses = s.losses ∧
    (retarget s).writer = s.writer ∧ (retarget s).monitors = s.monitors ∧ (retarget s).mail.endings = s.mail.endings ∧
    (retarget s).mail.told = s.mail.told ∧ (retarget s).mail.answers = s.mail.answers ∧ (retarget s).mail.grants = s.mail.grants ∧
    (retarget s).mail.reservations = s.mail.reservations ∧ (retarget s).mail.triggers = s.mail.triggers ∧
    (retarget s).mail.signals = s.mail.signals ∧ (retarget s).link.hunting = s.link.hunting ∧
    (retarget s).link.gathered = s.link.gathered ∧ (retarget s).link.held = s.link.held ∧
    (retarget s).link.resetCause = s.link.resetCause ∧ (retarget s).link.sent = s.link.sent ∧ owed (retarget s).link = owed s.link := by
  unfold retarget
  try dsimp only
  (repeat' split) <;> simp

@[simp] theorem takeParkReport_frame (s : State) :
    (takeParkReport s).pending = s.pending ∧ (takeParkReport s).now = s.now ∧ (takeParkReport s).plan = s.plan ∧
    (takeParkReport s).session = s.session ∧ (takeParkReport s).table = s.table ∧ (takeParkReport s).locks = s.locks ∧
    (takeParkReport s).pool = s.pool ∧ (takeParkReport s).queue = s.queue ∧ (takeParkReport s).chans = s.chans ∧
    (takeParkReport s).stripSent = s.stripSent ∧ (takeParkReport s).losses = s.losses ∧ (takeParkReport s).writer = s.writer ∧
    (takeParkReport s).monitors = s.monitors ∧ (takeParkReport s).mail.endings = s.mail.endings ∧
    (takeParkReport s).mail.told = s.mail.told ∧ (takeParkReport s).mail.answers = s.mail.answers ∧
    (takeParkReport s).mail.grants = s.mail.grants ∧ (takeParkReport s).mail.reservations = s.mail.reservations ∧
    (takeParkReport s).mail.triggers = s.mail.triggers ∧ (takeParkReport s).mail.signals = s.mail.signals ∧
    (takeParkReport s).link.hunting = s.link.hunting ∧ (takeParkReport s).link.gathered = s.link.gathered ∧
    (takeParkReport s).link.held = s.link.held ∧ (takeParkReport s).link.resetCause = s.link.resetCause ∧
    (takeParkReport s).link.sent = s.link.sent ∧ owed (takeParkReport s).link = owed s.link := by
  unfold takeParkReport
  try dsimp only
  (repeat' split) <;> simp

@[simp] theorem takeSignal_frame (s : State) :
    (takeSignal s).pending = s.pending ∧ (takeSignal s).now = s.now ∧ (takeSignal s).plan = s.plan ∧
    (takeSignal s).session = s.session ∧ (takeSignal s).table = s.table ∧ (takeSignal s).locks = s.locks ∧
    (takeSignal s).pool = s.pool ∧ (takeSignal s).queue = s.queue ∧ (takeSignal s).chans = s.chans ∧
    (takeSignal s).stripSent = s.stripSent ∧ (takeSignal s).losses = s.losses ∧ (takeSignal s).writer = s.writer ∧
    (takeSignal s).monitors = s.monitors ∧ (takeSignal s).mail.endings = s.mail.endings ∧ (takeSignal s).mail.told = s.mail.told ∧
    (takeSignal s).mail.answers = s.mail.answers ∧ (takeSignal s).mail.grants = s.mail.grants ∧
    (takeSignal s).mail.reservations = s.mail.reservations ∧ (takeSignal s).mail.triggers = s.mail.triggers ∧
    (takeSignal s).mail.signals = s.mail.signals ∧ (takeSignal s).link.hunting = s.link.hunting ∧
    (takeSignal s).link.gathered = s.link.gathered ∧ (takeSignal s).link.held = s.link.held ∧
    (takeSignal s).link.resetCause = s.link.resetCause ∧ (takeSignal s).link.sent = s.link.sent ∧
    owed (takeSignal s).link = owed s.link := by
  simp [takeSignal]

@[simp] theorem quietExpires_frame (s : State) :
    (quietExpires s).pending = s.pending ∧ (quietExpires s).now = s.now ∧ (quietExpires s).plan = s.plan ∧
    (quietExpires s).session = s.session ∧ (quietExpires s).table = s.table ∧ (quietExpires s).locks = s.locks ∧
    (quietExpires s).pool = s.pool ∧ (quietExpires s).queue = s.queue ∧ (quietExpires s).chans = s.chans ∧
    (quietExpires s).stripSent = s.stripSent ∧ (quietExpires s).losses = s.losses ∧ (quietExpires s).writer = s.writer ∧
    (quietExpires s).monitors = s.monitors ∧ (quietExpires s).mail.endings = s.mail.endings ∧
    (quietExpires s).mail.told = s.mail.told ∧ (quietExpires s).mail.answers = s.mail.answers ∧
    (quietExpires s).mail.grants = s.mail.grants ∧ (quietExpires s).mail.reservations = s.mail.reservations ∧
    (quietExpires s).mail.triggers = s.mail.triggers ∧ (quietExpires s).mail.signals = s.mail.signals ∧
    (quietExpires s).link.hunting = s.link.hunting ∧ (quietExpires s).link.gathered = s.link.gathered ∧
    (quietExpires s).link.held = s.link.held ∧ (quietExpires s).link.resetCause = s.link.resetCause ∧
    (quietExpires s).link.sent = s.link.sent ∧ owed (quietExpires s).link = owed s.link := by
  unfold quietExpires
  try dsimp only
  (repeat' split) <;> simp

@[simp] theorem releaseExtent_frame (x : Nat) (s : State) :
    (releaseExtent x s).pending = s.pending ∧ (releaseExtent x s).now = s.now ∧ (releaseExtent x s).plan = s.plan ∧
    (releaseExtent x s).session = s.session ∧ (releaseExtent x s).governor = s.governor ∧ (releaseExtent x s).locks = s.locks ∧
    (releaseExtent x s).pool = s.pool ∧ (releaseExtent x s).queue = s.queue ∧ (releaseExtent x s).chans = s.chans ∧
    (releaseExtent x s).stripSent = s.stripSent ∧ (releaseExtent x s).losses = s.losses ∧ (releaseExtent x s).writer = s.writer ∧
    (releaseExtent x s).monitors = s.monitors ∧ (releaseExtent x s).mail.endings = s.mail.endings ∧
    (releaseExtent x s).mail.told = s.mail.told ∧ (releaseExtent x s).mail.answers = s.mail.answers ∧
    (releaseExtent x s).mail.grants = s.mail.grants ∧ (releaseExtent x s).mail.reservations = s.mail.reservations ∧
    (releaseExtent x s).mail.triggers = s.mail.triggers ∧ (releaseExtent x s).mail.signals = s.mail.signals ∧
    (releaseExtent x s).link.hunting = s.link.hunting ∧ (releaseExtent x s).link.gathered = s.link.gathered ∧
    (releaseExtent x s).link.held = s.link.held ∧ (releaseExtent x s).link.resetCause = s.link.resetCause ∧
    (releaseExtent x s).link.sent = s.link.sent ∧ owed (releaseExtent x s).link = owed s.link := by
  simp [releaseExtent]

@[simp] theorem lockWaitEvent_frame (op : OpName) (s : State) :
    (lockWaitEvent op s).pending = s.pending ∧ (lockWaitEvent op s).now = s.now ∧ (lockWaitEvent op s).plan = s.plan ∧
    (lockWaitEvent op s).session = s.session ∧ (lockWaitEvent op s).table = s.table ∧ (lockWaitEvent op s).lanes = s.lanes ∧
    (lockWaitEvent op s).governor = s.governor ∧ (lockWaitEvent op s).locks = s.locks ∧ (lockWaitEvent op s).pool = s.pool ∧
    (lockWaitEvent op s).queue = s.queue ∧ (lockWaitEvent op s).chans = s.chans ∧ (lockWaitEvent op s).stripSent = s.stripSent ∧
    (lockWaitEvent op s).losses = s.losses ∧ (lockWaitEvent op s).writer = s.writer ∧
    (lockWaitEvent op s).mail.endings = s.mail.endings ∧ (lockWaitEvent op s).mail.told = s.mail.told ∧
    (lockWaitEvent op s).mail.claims = s.mail.claims ∧ (lockWaitEvent op s).mail.answers = s.mail.answers ∧
    (lockWaitEvent op s).mail.grants = s.mail.grants ∧ (lockWaitEvent op s).mail.reservations = s.mail.reservations ∧
    (lockWaitEvent op s).mail.triggers = s.mail.triggers ∧ (lockWaitEvent op s).link.hunting = s.link.hunting ∧
    (lockWaitEvent op s).link.gathered = s.link.gathered ∧ (lockWaitEvent op s).link.held = s.link.held ∧
    (lockWaitEvent op s).link.resetCause = s.link.resetCause ∧ (lockWaitEvent op s).link.sent = s.link.sent ∧
    owed (lockWaitEvent op s).link = owed s.link := by
  unfold lockWaitEvent
  try dsimp only
  (repeat' split) <;> simp

@[simp] theorem requestLock_frame (op : OpName) (mode : LockMode) (stripe : Nat) (s : State) :
    (requestLock op mode stripe s).2.pending = s.pending ∧ (requestLock op mode stripe s).2.now = s.now ∧
    (requestLock op mode stripe s).2.plan = s.plan ∧ (requestLock op mode stripe s).2.session = s.session ∧
    (requestLock op mode stripe s).2.table = s.table ∧ (requestLock op mode stripe s).2.lanes = s.lanes ∧
    (requestLock op mode stripe s).2.governor = s.governor ∧ (requestLock op mode stripe s).2.pool = s.pool ∧
    (requestLock op mode stripe s).2.queue = s.queue ∧ (requestLock op mode stripe s).2.chans = s.chans ∧
    (requestLock op mode stripe s).2.stripSent = s.stripSent ∧ (requestLock op mode stripe s).2.losses = s.losses ∧
    (requestLock op mode stripe s).2.writer = s.writer ∧ (requestLock op mode stripe s).2.mail.endings = s.mail.endings ∧
    (requestLock op mode stripe s).2.mail.told = s.mail.told ∧ (requestLock op mode stripe s).2.mail.claims = s.mail.claims ∧
    (requestLock op mode stripe s).2.mail.answers = s.mail.answers ∧ (requestLock op mode stripe s).2.mail.grants = s.mail.grants ∧
    (requestLock op mode stripe s).2.mail.reservations = s.mail.reservations ∧
    (requestLock op mode stripe s).2.mail.triggers = s.mail.triggers ∧ (requestLock op mode stripe s).2.link.hunting = s.link.hunting ∧
    (requestLock op mode stripe s).2.link.gathered = s.link.gathered ∧ (requestLock op mode stripe s).2.link.held = s.link.held ∧
    (requestLock op mode stripe s).2.link.resetCause = s.link.resetCause ∧ (requestLock op mode stripe s).2.link.sent = s.link.sent ∧
    owed (requestLock op mode stripe s).2.link = owed s.link := by
  unfold requestLock
  try dsimp only
  (repeat' split) <;> simp

@[simp] theorem serveEntry_frame (e : LockEntry) (s : State) :
    (serveEntry e s).pending = s.pending ∧ (serveEntry e s).now = s.now ∧ (serveEntry e s).plan = s.plan ∧
    (serveEntry e s).session = s.session ∧ (serveEntry e s).table = s.table ∧ (serveEntry e s).lanes = s.lanes ∧
    (serveEntry e s).governor = s.governor ∧ (serveEntry e s).pool = s.pool ∧ (serveEntry e s).queue = s.queue ∧
    (serveEntry e s).chans = s.chans ∧ (serveEntry e s).stripSent = s.stripSent ∧ (serveEntry e s).losses = s.losses ∧
    (serveEntry e s).writer = s.writer ∧ (serveEntry e s).monitors = s.monitors ∧ (serveEntry e s).link = s.link ∧
    (serveEntry e s).mail.endings = s.mail.endings ∧ (serveEntry e s).mail.told = s.mail.told ∧
    (serveEntry e s).mail.claims = s.mail.claims ∧ (serveEntry e s).mail.answers = s.mail.answers ∧
    (serveEntry e s).mail.reservations = s.mail.reservations ∧ (serveEntry e s).mail.triggers = s.mail.triggers ∧
    (serveEntry e s).mail.signals = s.mail.signals := by
  simp [serveEntry]

@[simp] theorem releaseLock_frame (op : OpName) (stripe : Nat) (s : State) :
    (releaseLock op stripe s).pending = s.pending ∧ (releaseLock op stripe s).now = s.now ∧ (releaseLock op stripe s).plan = s.plan ∧
    (releaseLock op stripe s).session = s.session ∧ (releaseLock op stripe s).table = s.table ∧
    (releaseLock op stripe s).lanes = s.lanes ∧ (releaseLock op stripe s).governor = s.governor ∧
    (releaseLock op stripe s).pool = s.pool ∧ (releaseLock op stripe s).queue = s.queue ∧ (releaseLock op stripe s).chans = s.chans ∧
    (releaseLock op stripe s).stripSent = s.stripSent ∧ (releaseLock op stripe s).losses = s.losses ∧
    (releaseLock op stripe s).writer = s.writer ∧ (releaseLock op stripe s).monitors = s.monitors ∧
    (releaseLock op stripe s).link = s.link ∧ (releaseLock op stripe s).mail.endings = s.mail.endings ∧
    (releaseLock op stripe s).mail.told = s.mail.told ∧ (releaseLock op stripe s).mail.claims = s.mail.claims ∧
    (releaseLock op stripe s).mail.answers = s.mail.answers ∧ (releaseLock op stripe s).mail.reservations = s.mail.reservations ∧
    (releaseLock op stripe s).mail.triggers = s.mail.triggers ∧ (releaseLock op stripe s).mail.signals = s.mail.signals := by
  unfold releaseLock
  try dsimp only
  (repeat' split) <;> simp

@[simp] theorem withdrawLock_frame (op : OpName) (stripe : Nat) (s : State) :
    (withdrawLock op stripe s).pending = s.pending ∧ (withdrawLock op stripe s).now = s.now ∧
    (withdrawLock op stripe s).plan = s.plan ∧ (withdrawLock op stripe s).session = s.session ∧
    (withdrawLock op stripe s).table = s.table ∧ (withdrawLock op stripe s).lanes = s.lanes ∧
    (withdrawLock op stripe s).governor = s.governor ∧ (withdrawLock op stripe s).pool = s.pool ∧
    (withdrawLock op stripe s).queue = s.queue ∧ (withdrawLock op stripe s).chans = s.chans ∧
    (withdrawLock op stripe s).stripSent = s.stripSent ∧ (withdrawLock op stripe s).losses = s.losses ∧
    (withdrawLock op stripe s).writer = s.writer ∧ (withdrawLock op stripe s).monitors = s.monitors ∧
    (withdrawLock op stripe s).link = s.link ∧ (withdrawLock op stripe s).mail.endings = s.mail.endings ∧
    (withdrawLock op stripe s).mail.told = s.mail.told ∧ (withdrawLock op stripe s).mail.claims = s.mail.claims ∧
    (withdrawLock op stripe s).mail.answers = s.mail.answers ∧ (withdrawLock op stripe s).mail.reservations = s.mail.reservations ∧
    (withdrawLock op stripe s).mail.triggers = s.mail.triggers ∧ (withdrawLock op stripe s).mail.signals = s.mail.signals := by
  unfold withdrawLock
  try dsimp only
  (repeat' split) <;> simp

@[simp] theorem serveQueue_frame (s : State) :
    (serveQueue s).pending = s.pending ∧ (serveQueue s).now = s.now ∧ (serveQueue s).plan = s.plan ∧
    (serveQueue s).session = s.session ∧ (serveQueue s).table = s.table ∧ (serveQueue s).lanes = s.lanes ∧
    (serveQueue s).governor = s.governor ∧ (serveQueue s).locks = s.locks ∧ (serveQueue s).queue = s.queue ∧
    (serveQueue s).chans = s.chans ∧ (serveQueue s).stripSent = s.stripSent ∧ (serveQueue s).losses = s.losses ∧
    (serveQueue s).writer = s.writer ∧ (serveQueue s).monitors = s.monitors ∧ (serveQueue s).link = s.link ∧
    (serveQueue s).mail.endings = s.mail.endings ∧ (serveQueue s).mail.told = s.mail.told ∧
    (serveQueue s).mail.claims = s.mail.claims ∧ (serveQueue s).mail.answers = s.mail.answers ∧
    (serveQueue s).mail.grants = s.mail.grants ∧ (serveQueue s).mail.triggers = s.mail.triggers ∧
    (serveQueue s).mail.signals = s.mail.signals := by
  simp [serveQueue]

@[simp] theorem requestBuffers_frame (r : BufferRequest) (s : State) :
    (requestBuffers r s).pending = s.pending ∧ (requestBuffers r s).now = s.now ∧ (requestBuffers r s).plan = s.plan ∧
    (requestBuffers r s).session = s.session ∧ (requestBuffers r s).table = s.table ∧ (requestBuffers r s).lanes = s.lanes ∧
    (requestBuffers r s).governor = s.governor ∧ (requestBuffers r s).locks = s.locks ∧ (requestBuffers r s).queue = s.queue ∧
    (requestBuffers r s).chans = s.chans ∧ (requestBuffers r s).stripSent = s.stripSent ∧ (requestBuffers r s).losses = s.losses ∧
    (requestBuffers r s).writer = s.writer ∧ (requestBuffers r s).mail.endings = s.mail.endings ∧
    (requestBuffers r s).mail.told = s.mail.told ∧ (requestBuffers r s).mail.claims = s.mail.claims ∧
    (requestBuffers r s).mail.answers = s.mail.answers ∧ (requestBuffers r s).mail.grants = s.mail.grants ∧
    (requestBuffers r s).mail.triggers = s.mail.triggers ∧ (requestBuffers r s).link.hunting = s.link.hunting ∧
    (requestBuffers r s).link.gathered = s.link.gathered ∧ (requestBuffers r s).link.held = s.link.held ∧
    (requestBuffers r s).link.resetCause = s.link.resetCause ∧ (requestBuffers r s).link.sent = s.link.sent ∧
    owed (requestBuffers r s).link = owed s.link := by
  unfold requestBuffers
  try dsimp only
  (repeat' split) <;> simp

@[simp] theorem releaseBuffers_frame (op : OpName) (s : State) :
    (releaseBuffers op s).pending = s.pending ∧ (releaseBuffers op s).now = s.now ∧ (releaseBuffers op s).plan = s.plan ∧
    (releaseBuffers op s).session = s.session ∧ (releaseBuffers op s).table = s.table ∧ (releaseBuffers op s).lanes = s.lanes ∧
    (releaseBuffers op s).governor = s.governor ∧ (releaseBuffers op s).locks = s.locks ∧ (releaseBuffers op s).queue = s.queue ∧
    (releaseBuffers op s).chans = s.chans ∧ (releaseBuffers op s).stripSent = s.stripSent ∧ (releaseBuffers op s).losses = s.losses ∧
    (releaseBuffers op s).writer = s.writer ∧ (releaseBuffers op s).monitors = s.monitors ∧ (releaseBuffers op s).link = s.link ∧
    (releaseBuffers op s).mail.endings = s.mail.endings ∧ (releaseBuffers op s).mail.told = s.mail.told ∧
    (releaseBuffers op s).mail.claims = s.mail.claims ∧ (releaseBuffers op s).mail.answers = s.mail.answers ∧
    (releaseBuffers op s).mail.grants = s.mail.grants ∧ (releaseBuffers op s).mail.triggers = s.mail.triggers ∧
    (releaseBuffers op s).mail.signals = s.mail.signals := by
  simp [releaseBuffers]

@[simp] theorem withdrawBuffers_frame (l : Lane) (s : State) :
    (withdrawBuffers l s).pending = s.pending ∧ (withdrawBuffers l s).now = s.now ∧ (withdrawBuffers l s).plan = s.plan ∧
    (withdrawBuffers l s).session = s.session ∧ (withdrawBuffers l s).table = s.table ∧ (withdrawBuffers l s).lanes = s.lanes ∧
    (withdrawBuffers l s).governor = s.governor ∧ (withdrawBuffers l s).locks = s.locks ∧ (withdrawBuffers l s).queue = s.queue ∧
    (withdrawBuffers l s).chans = s.chans ∧ (withdrawBuffers l s).stripSent = s.stripSent ∧ (withdrawBuffers l s).losses = s.losses ∧
    (withdrawBuffers l s).writer = s.writer ∧ (withdrawBuffers l s).monitors = s.monitors ∧ (withdrawBuffers l s).link = s.link ∧
    (withdrawBuffers l s).mail.endings = s.mail.endings ∧ (withdrawBuffers l s).mail.told = s.mail.told ∧
    (withdrawBuffers l s).mail.claims = s.mail.claims ∧ (withdrawBuffers l s).mail.answers = s.mail.answers ∧
    (withdrawBuffers l s).mail.grants = s.mail.grants ∧ (withdrawBuffers l s).mail.triggers = s.mail.triggers ∧
    (withdrawBuffers l s).mail.signals = s.mail.signals := by
  simp [withdrawBuffers]

@[simp] theorem setChan_frame (c : Chan) (r : ChannelRec) (s : State) :
    (setChan c r s).pending = s.pending ∧ (setChan c r s).now = s.now ∧ (setChan c r s).plan = s.plan ∧
    (setChan c r s).session = s.session ∧ (setChan c r s).table = s.table ∧ (setChan c r s).lanes = s.lanes ∧
    (setChan c r s).governor = s.governor ∧ (setChan c r s).locks = s.locks ∧ (setChan c r s).pool = s.pool ∧
    (setChan c r s).queue = s.queue ∧ (setChan c r s).stripSent = s.stripSent ∧ (setChan c r s).losses = s.losses ∧
    (setChan c r s).writer = s.writer ∧ (setChan c r s).monitors = s.monitors ∧ (setChan c r s).link = s.link ∧
    (setChan c r s).mail = s.mail := by
  simp [setChan]

@[simp] theorem handEnding_frame (c : Chan) (cmd : StripCmd) (e : EndStatus) (s : State) :
    (handEnding c cmd e s).pending = s.pending ∧ (handEnding c cmd e s).now = s.now ∧ (handEnding c cmd e s).plan = s.plan ∧
    (handEnding c cmd e s).session = s.session ∧ (handEnding c cmd e s).table = s.table ∧ (handEnding c cmd e s).lanes = s.lanes ∧
    (handEnding c cmd e s).governor = s.governor ∧ (handEnding c cmd e s).locks = s.locks ∧ (handEnding c cmd e s).pool = s.pool ∧
    (handEnding c cmd e s).queue = s.queue ∧ (handEnding c cmd e s).chans = s.chans ∧ (handEnding c cmd e s).stripSent = s.stripSent ∧
    (handEnding c cmd e s).losses = s.losses ∧ (handEnding c cmd e s).writer = s.writer ∧
    (handEnding c cmd e s).monitors = s.monitors ∧ (handEnding c cmd e s).link = s.link ∧
    (handEnding c cmd e s).mail.told = s.mail.told ∧ (handEnding c cmd e s).mail.claims = s.mail.claims ∧
    (handEnding c cmd e s).mail.answers = s.mail.answers ∧ (handEnding c cmd e s).mail.grants = s.mail.grants ∧
    (handEnding c cmd e s).mail.reservations = s.mail.reservations ∧ (handEnding c cmd e s).mail.triggers = s.mail.triggers ∧
    (handEnding c cmd e s).mail.signals = s.mail.signals := by
  simp [handEnding]

@[simp] theorem handCommand_frame (c : Chan) (cls : CmdClass) (cmd : StripCmd) (s : State) :
    (handCommand c cls cmd s).pending = s.pending ∧ (handCommand c cls cmd s).now = s.now ∧ (handCommand c cls cmd s).plan = s.plan ∧
    (handCommand c cls cmd s).session = s.session ∧ (handCommand c cls cmd s).table = s.table ∧
    (handCommand c cls cmd s).lanes = s.lanes ∧ (handCommand c cls cmd s).governor = s.governor ∧
    (handCommand c cls cmd s).locks = s.locks ∧ (handCommand c cls cmd s).pool = s.pool ∧ (handCommand c cls cmd s).queue = s.queue ∧
    (handCommand c cls cmd s).stripSent = s.stripSent ∧ (handCommand c cls cmd s).losses = s.losses ∧
    (handCommand c cls cmd s).writer = s.writer ∧ (handCommand c cls cmd s).monitors = s.monitors ∧
    (handCommand c cls cmd s).link = s.link ∧ (handCommand c cls cmd s).mail.told = s.mail.told ∧
    (handCommand c cls cmd s).mail.claims = s.mail.claims ∧ (handCommand c cls cmd s).mail.answers = s.mail.answers ∧
    (handCommand c cls cmd s).mail.grants = s.mail.grants ∧ (handCommand c cls cmd s).mail.reservations = s.mail.reservations ∧
    (handCommand c cls cmd s).mail.triggers = s.mail.triggers ∧ (handCommand c cls cmd s).mail.signals = s.mail.signals := by
  unfold handCommand
  try dsimp only
  (repeat' split) <;> simp

@[simp] theorem issueOne_frame (c : Chan) (s : State) :
    (issueOne c s).pending = s.pending ∧ (issueOne c s).now = s.now ∧ (issueOne c s).plan = s.plan ∧
    (issueOne c s).session = s.session ∧ (issueOne c s).table = s.table ∧ (issueOne c s).lanes = s.lanes ∧
    (issueOne c s).governor = s.governor ∧ (issueOne c s).locks = s.locks ∧ (issueOne c s).pool = s.pool ∧
    (issueOne c s).queue = s.queue ∧ (issueOne c s).losses = s.losses ∧ (issueOne c s).writer = s.writer ∧
    (issueOne c s).monitors = s.monitors ∧ (issueOne c s).link = s.link ∧ (issueOne c s).mail = s.mail := by
  unfold issueOne
  try dsimp only
  (repeat' split) <;> simp

@[simp] theorem serveChannel_frame (c : Chan) (s : State) :
    (serveChannel c s).pending = s.pending ∧ (serveChannel c s).now = s.now ∧ (serveChannel c s).plan = s.plan ∧
    (serveChannel c s).session = s.session ∧ (serveChannel c s).table = s.table ∧ (serveChannel c s).lanes = s.lanes ∧
    (serveChannel c s).governor = s.governor ∧ (serveChannel c s).locks = s.locks ∧ (serveChannel c s).pool = s.pool ∧
    (serveChannel c s).queue = s.queue ∧ (serveChannel c s).losses = s.losses ∧ (serveChannel c s).writer = s.writer ∧
    (serveChannel c s).monitors = s.monitors ∧ (serveChannel c s).link = s.link ∧ (serveChannel c s).mail = s.mail := by
  simp [serveChannel]

@[simp] theorem settleOrphans_frame (l : Lane) (s : State) :
    (settleOrphans l s).pending = s.pending ∧ (settleOrphans l s).now = s.now ∧ (settleOrphans l s).plan = s.plan ∧
    (settleOrphans l s).session = s.session ∧ (settleOrphans l s).table = s.table ∧ (settleOrphans l s).lanes = s.lanes ∧
    (settleOrphans l s).governor = s.governor ∧ (settleOrphans l s).locks = s.locks ∧ (settleOrphans l s).queue = s.queue ∧
    (settleOrphans l s).chans = s.chans ∧ (settleOrphans l s).stripSent = s.stripSent ∧ (settleOrphans l s).losses = s.losses ∧
    (settleOrphans l s).writer = s.writer ∧ (settleOrphans l s).monitors = s.monitors ∧ (settleOrphans l s).link = s.link ∧
    (settleOrphans l s).mail.endings = s.mail.endings ∧ (settleOrphans l s).mail.told = s.mail.told ∧
    (settleOrphans l s).mail.claims = s.mail.claims ∧ (settleOrphans l s).mail.answers = s.mail.answers ∧
    (settleOrphans l s).mail.grants = s.mail.grants ∧ (settleOrphans l s).mail.triggers = s.mail.triggers ∧
    (settleOrphans l s).mail.signals = s.mail.signals := by
  unfold settleOrphans
  try dsimp only
  (repeat' split) <;> simp

@[simp] theorem endCommand_frame (c : Chan) (cmd : StripCmd) (e : EndStatus) (s : State) :
    (endCommand c cmd e s).pending = s.pending ∧ (endCommand c cmd e s).now = s.now ∧ (endCommand c cmd e s).plan = s.plan ∧
    (endCommand c cmd e s).session = s.session ∧ (endCommand c cmd e s).table = s.table ∧ (endCommand c cmd e s).lanes = s.lanes ∧
    (endCommand c cmd e s).governor = s.governor ∧ (endCommand c cmd e s).locks = s.locks ∧ (endCommand c cmd e s).queue = s.queue ∧
    (endCommand c cmd e s).chans = s.chans ∧ (endCommand c cmd e s).stripSent = s.stripSent ∧
    (endCommand c cmd e s).losses = s.losses ∧ (endCommand c cmd e s).writer = s.writer ∧
    (endCommand c cmd e s).monitors = s.monitors ∧ (endCommand c cmd e s).link = s.link ∧
    (endCommand c cmd e s).mail.told = s.mail.told ∧ (endCommand c cmd e s).mail.claims = s.mail.claims ∧
    (endCommand c cmd e s).mail.answers = s.mail.answers ∧ (endCommand c cmd e s).mail.grants = s.mail.grants ∧
    (endCommand c cmd e s).mail.triggers = s.mail.triggers ∧ (endCommand c cmd e s).mail.signals = s.mail.signals := by
  unfold endCommand
  try dsimp only
  (repeat' split) <;> simp

@[simp] theorem tellSession_frame (c : Chan) (r : Role) (s : State) :
    (tellSession c r s).pending = s.pending ∧ (tellSession c r s).now = s.now ∧ (tellSession c r s).plan = s.plan ∧
    (tellSession c r s).session = s.session ∧ (tellSession c r s).table = s.table ∧ (tellSession c r s).lanes = s.lanes ∧
    (tellSession c r s).governor = s.governor ∧ (tellSession c r s).locks = s.locks ∧ (tellSession c r s).pool = s.pool ∧
    (tellSession c r s).queue = s.queue ∧ (tellSession c r s).chans = s.chans ∧ (tellSession c r s).stripSent = s.stripSent ∧
    (tellSession c r s).losses = s.losses ∧ (tellSession c r s).writer = s.writer ∧ (tellSession c r s).monitors = s.monitors ∧
    (tellSession c r s).link = s.link ∧ (tellSession c r s).mail.endings = s.mail.endings ∧
    (tellSession c r s).mail.claims = s.mail.claims ∧ (tellSession c r s).mail.answers = s.mail.answers ∧
    (tellSession c r s).mail.grants = s.mail.grants ∧ (tellSession c r s).mail.reservations = s.mail.reservations ∧
    (tellSession c r s).mail.triggers = s.mail.triggers ∧ (tellSession c r s).mail.signals = s.mail.signals := by
  simp [tellSession]

@[simp] theorem declareFailed_frame (c : Chan) (cause : FailCause) (s : State) :
    (declareFailed c cause s).pending = s.pending ∧ (declareFailed c cause s).now = s.now ∧ (declareFailed c cause s).plan = s.plan ∧
    (declareFailed c cause s).session = s.session ∧ (declareFailed c cause s).table = s.table ∧
    (declareFailed c cause s).lanes = s.lanes ∧ (declareFailed c cause s).governor = s.governor ∧
    (declareFailed c cause s).locks = s.locks ∧ (declareFailed c cause s).queue = s.queue ∧
    (declareFailed c cause s).stripSent = s.stripSent ∧ (declareFailed c cause s).losses = s.losses ∧
    (declareFailed c cause s).writer = s.writer ∧ (declareFailed c cause s).monitors = s.monitors ∧
    (declareFailed c cause s).mail.claims = s.mail.claims ∧ (declareFailed c cause s).mail.answers = s.mail.answers ∧
    (declareFailed c cause s).mail.grants = s.mail.grants ∧ (declareFailed c cause s).mail.triggers = s.mail.triggers ∧
    (declareFailed c cause s).mail.signals = s.mail.signals ∧ (declareFailed c cause s).link.hunting = s.link.hunting ∧
    (declareFailed c cause s).link.gathered = s.link.gathered ∧ (declareFailed c cause s).link.held = s.link.held ∧
    (declareFailed c cause s).link.resetCause = s.link.resetCause ∧ (declareFailed c cause s).link.sent = s.link.sent ∧
    owed (declareFailed c cause s).link = owed s.link := by
  unfold declareFailed
  try dsimp only
  simp [foldl_keeps State.pending, foldl_keeps State.now, foldl_keeps State.plan, foldl_keeps State.session, foldl_keeps State.table,
      foldl_keeps State.lanes, foldl_keeps State.governor, foldl_keeps State.locks, foldl_keeps State.queue,
      foldl_keeps State.stripSent, foldl_keeps State.losses, foldl_keeps State.writer, foldl_keeps State.monitors,
      foldl_keeps (fun t => t.mail.claims), foldl_keeps (fun t => t.mail.answers), foldl_keeps (fun t => t.mail.grants),
      foldl_keeps (fun t => t.mail.triggers), foldl_keeps (fun t => t.mail.signals), foldl_keeps (fun t => t.link.hunting),
      foldl_keeps (fun t => t.link.gathered), foldl_keeps (fun t => t.link.held), foldl_keeps (fun t => t.link.resetCause),
      foldl_keeps (fun t => t.link.sent), foldl_keeps (fun t => owed t.link)]

@[simp] theorem declareIfOnline_frame (c : Chan) (cause : FailCause) (s : State) :
    (declareIfOnline c cause s).pending = s.pending ∧ (declareIfOnline c cause s).now = s.now ∧
    (declareIfOnline c cause s).plan = s.plan ∧ (declareIfOnline c cause s).session = s.session ∧
    (declareIfOnline c cause s).table = s.table ∧ (declareIfOnline c cause s).lanes = s.lanes ∧
    (declareIfOnline c cause s).governor = s.governor ∧ (declareIfOnline c cause s).locks = s.locks ∧
    (declareIfOnline c cause s).queue = s.queue ∧ (declareIfOnline c cause s).stripSent = s.stripSent ∧
    (declareIfOnline c cause s).losses = s.losses ∧ (declareIfOnline c cause s).writer = s.writer ∧
    (declareIfOnline c cause s).monitors = s.monitors ∧ (declareIfOnline c cause s).mail.claims = s.mail.claims ∧
    (declareIfOnline c cause s).mail.answers = s.mail.answers ∧ (declareIfOnline c cause s).mail.grants = s.mail.grants ∧
    (declareIfOnline c cause s).mail.triggers = s.mail.triggers ∧ (declareIfOnline c cause s).mail.signals = s.mail.signals ∧
    (declareIfOnline c cause s).link.hunting = s.link.hunting ∧ (declareIfOnline c cause s).link.gathered = s.link.gathered ∧
    (declareIfOnline c cause s).link.held = s.link.held ∧ (declareIfOnline c cause s).link.resetCause = s.link.resetCause ∧
    (declareIfOnline c cause s).link.sent = s.link.sent ∧ owed (declareIfOnline c cause s).link = owed s.link := by
  unfold declareIfOnline
  try dsimp only
  (repeat' split) <;> simp

@[simp] theorem reportFailure_frame (c : Chan) (s : State) :
    (reportFailure c s).pending = s.pending ∧ (reportFailure c s).now = s.now ∧ (reportFailure c s).plan = s.plan ∧
    (reportFailure c s).session = s.session ∧ (reportFailure c s).table = s.table ∧ (reportFailure c s).lanes = s.lanes ∧
    (reportFailure c s).governor = s.governor ∧ (reportFailure c s).locks = s.locks ∧ (reportFailure c s).queue = s.queue ∧
    (reportFailure c s).stripSent = s.stripSent ∧ (reportFailure c s).losses = s.losses ∧ (reportFailure c s).writer = s.writer ∧
    (reportFailure c s).monitors = s.monitors ∧ (reportFailure c s).mail.claims = s.mail.claims ∧
    (reportFailure c s).mail.answers = s.mail.answers ∧ (reportFailure c s).mail.grants = s.mail.grants ∧
    (reportFailure c s).mail.triggers = s.mail.triggers ∧ (reportFailure c s).mail.signals = s.mail.signals ∧
    (reportFailure c s).link.hunting = s.link.hunting ∧ (reportFailure c s).link.gathered = s.link.gathered ∧
    (reportFailure c s).link.held = s.link.held ∧ (reportFailure c s).link.resetCause = s.link.resetCause ∧
    (reportFailure c s).link.sent = s.link.sent ∧ owed (reportFailure c s).link = owed s.link := by
  simp [reportFailure]

@[simp] theorem countError_frame (c : Chan) (e : EndStatus) (s : State) :
    (countError c e s).pending = s.pending ∧ (countError c e s).now = s.now ∧ (countError c e s).plan = s.plan ∧
    (countError c e s).session = s.session ∧ (countError c e s).table = s.table ∧ (countError c e s).lanes = s.lanes ∧
    (countError c e s).governor = s.governor ∧ (countError c e s).locks = s.locks ∧ (countError c e s).queue = s.queue ∧
    (countError c e s).stripSent = s.stripSent ∧ (countError c e s).losses = s.losses ∧ (countError c e s).writer = s.writer ∧
    (countError c e s).monitors = s.monitors ∧ (countError c e s).mail.claims = s.mail.claims ∧
    (countError c e s).mail.answers = s.mail.answers ∧ (countError c e s).mail.grants = s.mail.grants ∧
    (countError c e s).mail.triggers = s.mail.triggers ∧ (countError c e s).mail.signals = s.mail.signals ∧
    (countError c e s).link.hunting = s.link.hunting ∧ (countError c e s).link.gathered = s.link.gathered ∧
    (countError c e s).link.held = s.link.held ∧ (countError c e s).link.resetCause = s.link.resetCause ∧
    (countError c e s).link.sent = s.link.sent ∧ owed (countError c e s).link = owed s.link := by
  unfold countError
  try dsimp only
  (repeat' split) <;> simp

@[simp] theorem judgeEnding_frame (c : Chan) (cmd : StripCmd) (e : EndStatus) (s : State) :
    (judgeEnding c cmd e s).pending = s.pending ∧ (judgeEnding c cmd e s).now = s.now ∧ (judgeEnding c cmd e s).plan = s.plan ∧
    (judgeEnding c cmd e s).session = s.session ∧ (judgeEnding c cmd e s).table = s.table ∧ (judgeEnding c cmd e s).lanes = s.lanes ∧
    (judgeEnding c cmd e s).governor = s.governor ∧ (judgeEnding c cmd e s).locks = s.locks ∧ (judgeEnding c cmd e s).queue = s.queue ∧
    (judgeEnding c cmd e s).stripSent = s.stripSent ∧ (judgeEnding c cmd e s).losses = s.losses ∧
    (judgeEnding c cmd e s).writer = s.writer ∧ (judgeEnding c cmd e s).monitors = s.monitors ∧
    (judgeEnding c cmd e s).mail.claims = s.mail.claims ∧ (judgeEnding c cmd e s).mail.answers = s.mail.answers ∧
    (judgeEnding c cmd e s).mail.grants = s.mail.grants ∧ (judgeEnding c cmd e s).mail.triggers = s.mail.triggers ∧
    (judgeEnding c cmd e s).mail.signals = s.mail.signals ∧ (judgeEnding c cmd e s).link.hunting = s.link.hunting ∧
    (judgeEnding c cmd e s).link.gathered = s.link.gathered ∧ (judgeEnding c cmd e s).link.held = s.link.held ∧
    (judgeEnding c cmd e s).link.resetCause = s.link.resetCause ∧ (judgeEnding c cmd e s).link.sent = s.link.sent ∧
    owed (judgeEnding c cmd e s).link = owed s.link := by
  unfold judgeEnding
  try dsimp only
  (repeat' split) <;> simp

@[simp] theorem takeLinkDown_frame (c : Chan) (s : State) :
    (takeLinkDown c s).pending = s.pending ∧ (takeLinkDown c s).now = s.now ∧ (takeLinkDown c s).plan = s.plan ∧
    (takeLinkDown c s).session = s.session ∧ (takeLinkDown c s).table = s.table ∧ (takeLinkDown c s).lanes = s.lanes ∧
    (takeLinkDown c s).governor = s.governor ∧ (takeLinkDown c s).locks = s.locks ∧ (takeLinkDown c s).queue = s.queue ∧
    (takeLinkDown c s).stripSent = s.stripSent ∧ (takeLinkDown c s).losses = s.losses ∧ (takeLinkDown c s).writer = s.writer ∧
    (takeLinkDown c s).monitors = s.monitors ∧ (takeLinkDown c s).mail.claims = s.mail.claims ∧
    (takeLinkDown c s).mail.answers = s.mail.answers ∧ (takeLinkDown c s).mail.grants = s.mail.grants ∧
    (takeLinkDown c s).mail.triggers = s.mail.triggers ∧ (takeLinkDown c s).mail.signals = s.mail.signals ∧
    (takeLinkDown c s).link.hunting = s.link.hunting ∧ (takeLinkDown c s).link.gathered = s.link.gathered ∧
    (takeLinkDown c s).link.held = s.link.held ∧ (takeLinkDown c s).link.resetCause = s.link.resetCause ∧
    (takeLinkDown c s).link.sent = s.link.sent ∧ owed (takeLinkDown c s).link = owed s.link := by
  unfold takeLinkDown
  try dsimp only
  (repeat' split) <;> simp

@[simp] theorem lateCompletion_frame (c : Chan) (number : Word32) (st : StripStatus) (s : State) :
    (lateCompletion c number st s).pending = s.pending ∧ (lateCompletion c number st s).now = s.now ∧
    (lateCompletion c number st s).plan = s.plan ∧ (lateCompletion c number st s).session = s.session ∧
    (lateCompletion c number st s).table = s.table ∧ (lateCompletion c number st s).lanes = s.lanes ∧
    (lateCompletion c number st s).governor = s.governor ∧ (lateCompletion c number st s).locks = s.locks ∧
    (lateCompletion c number st s).queue = s.queue ∧ (lateCompletion c number st s).stripSent = s.stripSent ∧
    (lateCompletion c number st s).losses = s.losses ∧ (lateCompletion c number st s).writer = s.writer ∧
    (lateCompletion c number st s).monitors = s.monitors ∧ (lateCompletion c number st s).mail.claims = s.mail.claims ∧
    (lateCompletion c number st s).mail.answers = s.mail.answers ∧ (lateCompletion c number st s).mail.grants = s.mail.grants ∧
    (lateCompletion c number st s).mail.triggers = s.mail.triggers ∧ (lateCompletion c number st s).mail.signals = s.mail.signals ∧
    (lateCompletion c number st s).link.hunting = s.link.hunting ∧ (lateCompletion c number st s).link.gathered = s.link.gathered ∧
    (lateCompletion c number st s).link.held = s.link.held ∧ (lateCompletion c number st s).link.resetCause = s.link.resetCause ∧
    (lateCompletion c number st s).link.sent = s.link.sent ∧ owed (lateCompletion c number st s).link = owed s.link := by
  unfold lateCompletion
  try dsimp only
  (repeat' split) <;> simp

@[simp] theorem unissue_frame (c : Chan) (i : Issued) (s : State) :
    (unissue c i s).pending = s.pending ∧ (unissue c i s).now = s.now ∧ (unissue c i s).plan = s.plan ∧
    (unissue c i s).session = s.session ∧ (unissue c i s).table = s.table ∧ (unissue c i s).lanes = s.lanes ∧
    (unissue c i s).governor = s.governor ∧ (unissue c i s).locks = s.locks ∧ (unissue c i s).pool = s.pool ∧
    (unissue c i s).queue = s.queue ∧ (unissue c i s).stripSent = s.stripSent ∧ (unissue c i s).losses = s.losses ∧
    (unissue c i s).writer = s.writer ∧ (unissue c i s).monitors = s.monitors ∧ (unissue c i s).link = s.link ∧
    (unissue c i s).mail = s.mail := by
  simp [unissue]

@[simp] theorem takeCompletion_frame (c : Chan) (number : Word32) (st : StripStatus) (s : State) :
    (takeCompletion c number st s).pending = s.pending ∧ (takeCompletion c number st s).now = s.now ∧
    (takeCompletion c number st s).plan = s.plan ∧ (takeCompletion c number st s).session = s.session ∧
    (takeCompletion c number st s).table = s.table ∧ (takeCompletion c number st s).lanes = s.lanes ∧
    (takeCompletion c number st s).governor = s.governor ∧ (takeCompletion c number st s).locks = s.locks ∧
    (takeCompletion c number st s).queue = s.queue ∧ (takeCompletion c number st s).losses = s.losses ∧
    (takeCompletion c number st s).writer = s.writer ∧ (takeCompletion c number st s).monitors = s.monitors ∧
    (takeCompletion c number st s).mail.claims = s.mail.claims ∧ (takeCompletion c number st s).mail.answers = s.mail.answers ∧
    (takeCompletion c number st s).mail.grants = s.mail.grants ∧ (takeCompletion c number st s).mail.triggers = s.mail.triggers ∧
    (takeCompletion c number st s).mail.signals = s.mail.signals ∧ (takeCompletion c number st s).link.hunting = s.link.hunting ∧
    (takeCompletion c number st s).link.gathered = s.link.gathered ∧ (takeCompletion c number st s).link.held = s.link.held ∧
    (takeCompletion c number st s).link.resetCause = s.link.resetCause ∧ (takeCompletion c number st s).link.sent = s.link.sent ∧
    owed (takeCompletion c number st s).link = owed s.link := by
  unfold takeCompletion
  try dsimp only
  (repeat' split) <;> simp

@[simp] theorem takeTimeout_frame (c : Chan) (number : Word32) (s : State) :
    (takeTimeout c number s).pending = s.pending ∧ (takeTimeout c number s).plan = s.plan ∧
    (takeTimeout c number s).session = s.session ∧ (takeTimeout c number s).table = s.table ∧
    (takeTimeout c number s).lanes = s.lanes ∧ (takeTimeout c number s).governor = s.governor ∧
    (takeTimeout c number s).locks = s.locks ∧ (takeTimeout c number s).queue = s.queue ∧ (takeTimeout c number s).losses = s.losses ∧
    (takeTimeout c number s).writer = s.writer ∧ (takeTimeout c number s).mail.claims = s.mail.claims ∧
    (takeTimeout c number s).mail.answers = s.mail.answers ∧ (takeTimeout c number s).mail.grants = s.mail.grants ∧
    (takeTimeout c number s).mail.triggers = s.mail.triggers ∧ (takeTimeout c number s).link.hunting = s.link.hunting ∧
    (takeTimeout c number s).link.gathered = s.link.gathered ∧ (takeTimeout c number s).link.held = s.link.held ∧
    (takeTimeout c number s).link.resetCause = s.link.resetCause ∧ (takeTimeout c number s).link.sent = s.link.sent ∧
    owed (takeTimeout c number s).link = owed s.link := by
  unfold takeTimeout
  try dsimp only
  (repeat' split) <;> simp

@[simp] theorem takeResetAnswer_frame (c : Chan) (s : State) :
    (takeResetAnswer c s).pending = s.pending ∧ (takeResetAnswer c s).now = s.now ∧ (takeResetAnswer c s).plan = s.plan ∧
    (takeResetAnswer c s).session = s.session ∧ (takeResetAnswer c s).table = s.table ∧ (takeResetAnswer c s).lanes = s.lanes ∧
    (takeResetAnswer c s).governor = s.governor ∧ (takeResetAnswer c s).locks = s.locks ∧ (takeResetAnswer c s).pool = s.pool ∧
    (takeResetAnswer c s).queue = s.queue ∧ (takeResetAnswer c s).stripSent = s.stripSent ∧ (takeResetAnswer c s).losses = s.losses ∧
    (takeResetAnswer c s).writer = s.writer ∧ (takeResetAnswer c s).monitors = s.monitors ∧ (takeResetAnswer c s).link = s.link ∧
    (takeResetAnswer c s).mail = s.mail := by
  simp [takeResetAnswer]

@[simp] theorem orphanCommands_frame (l : Lane) (s : State) :
    (orphanCommands l s).pending = s.pending ∧ (orphanCommands l s).now = s.now ∧ (orphanCommands l s).plan = s.plan ∧
    (orphanCommands l s).session = s.session ∧ (orphanCommands l s).table = s.table ∧ (orphanCommands l s).lanes = s.lanes ∧
    (orphanCommands l s).governor = s.governor ∧ (orphanCommands l s).locks = s.locks ∧ (orphanCommands l s).queue = s.queue ∧
    (orphanCommands l s).stripSent = s.stripSent ∧ (orphanCommands l s).losses = s.losses ∧ (orphanCommands l s).writer = s.writer ∧
    (orphanCommands l s).monitors = s.monitors ∧ (orphanCommands l s).link = s.link ∧ (orphanCommands l s).mail.told = s.mail.told ∧
    (orphanCommands l s).mail.claims = s.mail.claims ∧ (orphanCommands l s).mail.answers = s.mail.answers ∧
    (orphanCommands l s).mail.grants = s.mail.grants ∧ (orphanCommands l s).mail.triggers = s.mail.triggers ∧
    (orphanCommands l s).mail.signals = s.mail.signals := by
  simp [orphanCommands]

end Sys2Proof.Machine
end

