-- ==== Sys2Proof/Laws/FramesSession.lean ====
section
/-! SUPPORT. What the operations of the checkpoint writer, the session controller, the loss list and the lane engine leave unchanged: one lemma for each operation, over every field of the state
that it never touches. -/

namespace Sys2Proof.Machine
open Sys2Proof

theorem takeEnding_frame {issuer : Issuer} {write : Bool} {c : Option Chan} {s t : State} {e : Ending}
    (h : takeEnding issuer write c s = some (e, t)) :
    t.pending = s.pending ∧ t.now = s.now ∧ t.plan = s.plan ∧ t.session = s.session ∧ t.table = s.table ∧ t.lanes = s.lanes ∧
    t.governor = s.governor ∧ t.locks = s.locks ∧ t.pool = s.pool ∧ t.queue = s.queue ∧ t.chans = s.chans ∧ t.stripSent = s.stripSent ∧
    t.losses = s.losses ∧ t.writer = s.writer ∧ t.monitors = s.monitors ∧ t.link = s.link ∧ t.mail.told = s.mail.told ∧
    t.mail.claims = s.mail.claims ∧ t.mail.answers = s.mail.answers ∧ t.mail.grants = s.mail.grants ∧
    t.mail.reservations = s.mail.reservations ∧ t.mail.triggers = s.mail.triggers ∧ t.mail.signals = s.mail.signals := by
  unfold takeEnding at h
  simp only [Option.map_eq_some_iff, Prod.mk.injEq] at h
  obtain ⟨q, -, -, rfl⟩ := h
  simp

theorem takeGrant_frame {op : OpName} {s t : State} (h : takeGrant op s = some t) :
    t.pending = s.pending ∧ t.now = s.now ∧ t.plan = s.plan ∧ t.session = s.session ∧ t.table = s.table ∧ t.lanes = s.lanes ∧
    t.governor = s.governor ∧ t.locks = s.locks ∧ t.pool = s.pool ∧ t.queue = s.queue ∧ t.chans = s.chans ∧ t.stripSent = s.stripSent ∧
    t.losses = s.losses ∧ t.writer = s.writer ∧ t.monitors = s.monitors ∧ t.link = s.link ∧ t.mail.endings = s.mail.endings ∧
    t.mail.told = s.mail.told ∧ t.mail.claims = s.mail.claims ∧ t.mail.answers = s.mail.answers ∧
    t.mail.reservations = s.mail.reservations ∧ t.mail.triggers = s.mail.triggers ∧ t.mail.signals = s.mail.signals := by
  unfold takeGrant at h
  split at h
  · cases h
    simp
  · cases h

theorem takeReservation_frame {op : OpName} {s t : State} (h : takeReservation op s = some t) :
    t.pending = s.pending ∧ t.now = s.now ∧ t.plan = s.plan ∧ t.session = s.session ∧ t.table = s.table ∧ t.lanes = s.lanes ∧
    t.governor = s.governor ∧ t.locks = s.locks ∧ t.pool = s.pool ∧ t.queue = s.queue ∧ t.chans = s.chans ∧ t.stripSent = s.stripSent ∧
    t.losses = s.losses ∧ t.writer = s.writer ∧ t.monitors = s.monitors ∧ t.link = s.link ∧ t.mail.endings = s.mail.endings ∧
    t.mail.told = s.mail.told ∧ t.mail.claims = s.mail.claims ∧ t.mail.answers = s.mail.answers ∧ t.mail.grants = s.mail.grants ∧
    t.mail.triggers = s.mail.triggers ∧ t.mail.signals = s.mail.signals := by
  unfold takeReservation at h
  split at h
  · cases h
    simp
  · cases h

@[simp] theorem afterReset_pending (c : ResetCause) (p : List Instr) : (State.afterReset c p).pending = p := rfl

@[simp] theorem setSession_frame (st : SessionState) (s : State) :
    (setSession st s).pending = s.pending ∧ (setSession st s).now = s.now ∧ (setSession st s).plan = s.plan ∧
    (setSession st s).table = s.table ∧ (setSession st s).lanes = s.lanes ∧ (setSession st s).governor = s.governor ∧
    (setSession st s).locks = s.locks ∧ (setSession st s).pool = s.pool ∧ (setSession st s).queue = s.queue ∧
    (setSession st s).chans = s.chans ∧ (setSession st s).stripSent = s.stripSent ∧ (setSession st s).losses = s.losses ∧
    (setSession st s).writer = s.writer ∧ (setSession st s).monitors = s.monitors ∧ (setSession st s).mail = s.mail ∧
    (setSession st s).link.hunting = s.link.hunting ∧ (setSession st s).link.gathered = s.link.gathered ∧
    (setSession st s).link.held = s.link.held ∧ (setSession st s).link.resetCause = s.link.resetCause ∧
    (setSession st s).link.sent = s.link.sent ∧ owed (setSession st s).link = owed s.link := by
  simp [setSession]

@[simp] theorem beginLong_frame (k : LongKind) (tag : Tag) (s : State) :
    (beginLong k tag s).pending = s.pending ∧ (beginLong k tag s).now = s.now ∧ (beginLong k tag s).plan = s.plan ∧
    (beginLong k tag s).table = s.table ∧ (beginLong k tag s).lanes = s.lanes ∧ (beginLong k tag s).governor = s.governor ∧
    (beginLong k tag s).locks = s.locks ∧ (beginLong k tag s).pool = s.pool ∧ (beginLong k tag s).queue = s.queue ∧
    (beginLong k tag s).chans = s.chans ∧ (beginLong k tag s).stripSent = s.stripSent ∧ (beginLong k tag s).losses = s.losses ∧
    (beginLong k tag s).writer = s.writer ∧ (beginLong k tag s).monitors = s.monitors ∧ (beginLong k tag s).link = s.link ∧
    (beginLong k tag s).mail = s.mail := by
  simp [beginLong]

@[simp] theorem setWriter_frame (w : Machine.Writer) (s : State) :
    (setWriter w s).pending = s.pending ∧ (setWriter w s).now = s.now ∧ (setWriter w s).plan = s.plan ∧
    (setWriter w s).session = s.session ∧ (setWriter w s).table = s.table ∧ (setWriter w s).lanes = s.lanes ∧
    (setWriter w s).governor = s.governor ∧ (setWriter w s).locks = s.locks ∧ (setWriter w s).pool = s.pool ∧
    (setWriter w s).queue = s.queue ∧ (setWriter w s).chans = s.chans ∧ (setWriter w s).stripSent = s.stripSent ∧
    (setWriter w s).losses = s.losses ∧ (setWriter w s).monitors = s.monitors ∧ (setWriter w s).link = s.link ∧
    (setWriter w s).mail = s.mail := by
  simp [setWriter]

@[simp] theorem composeWrite_frame (g : ArrayGroup) (m : Mark) (s : State) :
    (composeWrite g m s).pending = s.pending ∧ (composeWrite g m s).now = s.now ∧ (composeWrite g m s).plan = s.plan ∧
    (composeWrite g m s).session = s.session ∧ (composeWrite g m s).table = s.table ∧ (composeWrite g m s).lanes = s.lanes ∧
    (composeWrite g m s).governor = s.governor ∧ (composeWrite g m s).locks = s.locks ∧ (composeWrite g m s).queue = s.queue ∧
    (composeWrite g m s).stripSent = s.stripSent ∧ (composeWrite g m s).losses = s.losses ∧
    (composeWrite g m s).monitors = s.monitors ∧ (composeWrite g m s).mail.claims = s.mail.claims ∧
    (composeWrite g m s).mail.answers = s.mail.answers ∧ (composeWrite g m s).mail.grants = s.mail.grants ∧
    (composeWrite g m s).mail.triggers = s.mail.triggers ∧ (composeWrite g m s).mail.signals = s.mail.signals ∧
    (composeWrite g m s).link.hunting = s.link.hunting ∧ (composeWrite g m s).link.gathered = s.link.gathered ∧
    (composeWrite g m s).link.held = s.link.held ∧ (composeWrite g m s).link.resetCause = s.link.resetCause ∧
    (composeWrite g m s).link.sent = s.link.sent ∧ owed (composeWrite g m s).link = owed s.link := by
  unfold composeWrite
  try dsimp only
  (repeat' split) <;> simp

@[simp] theorem beginWrite_frame (m : Mark) (s : State) :
    (beginWrite m s).pending = s.pending ∧ (beginWrite m s).now = s.now ∧ (beginWrite m s).plan = s.plan ∧
    (beginWrite m s).session = s.session ∧ (beginWrite m s).table = s.table ∧ (beginWrite m s).lanes = s.lanes ∧
    (beginWrite m s).governor = s.governor ∧ (beginWrite m s).locks = s.locks ∧ (beginWrite m s).queue = s.queue ∧
    (beginWrite m s).stripSent = s.stripSent ∧ (beginWrite m s).losses = s.losses ∧ (beginWrite m s).monitors = s.monitors ∧
    (beginWrite m s).mail.claims = s.mail.claims ∧ (beginWrite m s).mail.answers = s.mail.answers ∧
    (beginWrite m s).mail.grants = s.mail.grants ∧ (beginWrite m s).mail.triggers = s.mail.triggers ∧
    (beginWrite m s).mail.signals = s.mail.signals ∧ (beginWrite m s).link.hunting = s.link.hunting ∧
    (beginWrite m s).link.gathered = s.link.gathered ∧ (beginWrite m s).link.held = s.link.held ∧
    (beginWrite m s).link.resetCause = s.link.resetCause ∧ (beginWrite m s).link.sent = s.link.sent ∧
    owed (beginWrite m s).link = owed s.link := by
  unfold beginWrite
  try dsimp only
  (repeat' split) <;> simp

@[simp] theorem askMarked_frame (m : Mark) (s : State) :
    (askMarked m s).pending = s.pending ∧ (askMarked m s).now = s.now ∧ (askMarked m s).plan = s.plan ∧
    (askMarked m s).session = s.session ∧ (askMarked m s).table = s.table ∧ (askMarked m s).lanes = s.lanes ∧
    (askMarked m s).governor = s.governor ∧ (askMarked m s).locks = s.locks ∧ (askMarked m s).queue = s.queue ∧
    (askMarked m s).stripSent = s.stripSent ∧ (askMarked m s).losses = s.losses ∧ (askMarked m s).monitors = s.monitors ∧
    (askMarked m s).mail.claims = s.mail.claims ∧ (askMarked m s).mail.answers = s.mail.answers ∧
    (askMarked m s).mail.grants = s.mail.grants ∧ (askMarked m s).mail.triggers = s.mail.triggers ∧
    (askMarked m s).mail.signals = s.mail.signals ∧ (askMarked m s).link.hunting = s.link.hunting ∧
    (askMarked m s).link.gathered = s.link.gathered ∧ (askMarked m s).link.held = s.link.held ∧
    (askMarked m s).link.resetCause = s.link.resetCause ∧ (askMarked m s).link.sent = s.link.sent ∧
    owed (askMarked m s).link = owed s.link := by
  unfold askMarked
  try dsimp only
  (repeat' split) <;> simp

@[simp] theorem takeTrigger_frame (s : State) :
    (takeTrigger s).pending = s.pending ∧ (takeTrigger s).now = s.now ∧ (takeTrigger s).plan = s.plan ∧
    (takeTrigger s).session = s.session ∧ (takeTrigger s).table = s.table ∧ (takeTrigger s).lanes = s.lanes ∧
    (takeTrigger s).governor = s.governor ∧ (takeTrigger s).locks = s.locks ∧ (takeTrigger s).queue = s.queue ∧
    (takeTrigger s).stripSent = s.stripSent ∧ (takeTrigger s).losses = s.losses ∧ (takeTrigger s).monitors = s.monitors ∧
    (takeTrigger s).mail.claims = s.mail.claims ∧ (takeTrigger s).mail.answers = s.mail.answers ∧
    (takeTrigger s).mail.grants = s.mail.grants ∧ (takeTrigger s).mail.triggers = s.mail.triggers ∧
    (takeTrigger s).mail.signals = s.mail.signals ∧ (takeTrigger s).link.hunting = s.link.hunting ∧
    (takeTrigger s).link.gathered = s.link.gathered ∧ (takeTrigger s).link.held = s.link.held ∧
    (takeTrigger s).link.resetCause = s.link.resetCause ∧ (takeTrigger s).link.sent = s.link.sent ∧
    owed (takeTrigger s).link = owed s.link := by
  unfold takeTrigger
  try dsimp only
  (repeat' split) <;> simp

@[simp] theorem takeTriggers_frame (n : Nat) (s : State) :
    (takeTriggers n s).pending = s.pending ∧ (takeTriggers n s).now = s.now ∧ (takeTriggers n s).plan = s.plan ∧
    (takeTriggers n s).session = s.session ∧ (takeTriggers n s).table = s.table ∧ (takeTriggers n s).lanes = s.lanes ∧
    (takeTriggers n s).governor = s.governor ∧ (takeTriggers n s).locks = s.locks ∧ (takeTriggers n s).queue = s.queue ∧
    (takeTriggers n s).stripSent = s.stripSent ∧ (takeTriggers n s).losses = s.losses ∧ (takeTriggers n s).monitors = s.monitors ∧
    (takeTriggers n s).mail.claims = s.mail.claims ∧ (takeTriggers n s).mail.answers = s.mail.answers ∧
    (takeTriggers n s).mail.grants = s.mail.grants ∧ (takeTriggers n s).mail.triggers = s.mail.triggers ∧
    (takeTriggers n s).mail.signals = s.mail.signals ∧ (takeTriggers n s).link.hunting = s.link.hunting ∧
    (takeTriggers n s).link.gathered = s.link.gathered ∧ (takeTriggers n s).link.held = s.link.held ∧
    (takeTriggers n s).link.resetCause = s.link.resetCause ∧ (takeTriggers n s).link.sent = s.link.sent ∧
    owed (takeTriggers n s).link = owed s.link := by
  induction n generalizing s with
  | zero => simp [takeTriggers]
  | succ n ih => simp [takeTriggers, ih]

@[simp] theorem takeAllTriggers_frame (s : State) :
    (takeAllTriggers s).pending = s.pending ∧ (takeAllTriggers s).now = s.now ∧ (takeAllTriggers s).plan = s.plan ∧
    (takeAllTriggers s).session = s.session ∧ (takeAllTriggers s).table = s.table ∧ (takeAllTriggers s).lanes = s.lanes ∧
    (takeAllTriggers s).governor = s.governor ∧ (takeAllTriggers s).locks = s.locks ∧ (takeAllTriggers s).queue = s.queue ∧
    (takeAllTriggers s).stripSent = s.stripSent ∧ (takeAllTriggers s).losses = s.losses ∧ (takeAllTriggers s).monitors = s.monitors ∧
    (takeAllTriggers s).mail.claims = s.mail.claims ∧ (takeAllTriggers s).mail.answers = s.mail.answers ∧
    (takeAllTriggers s).mail.grants = s.mail.grants ∧ (takeAllTriggers s).mail.signals = s.mail.signals ∧
    (takeAllTriggers s).link.hunting = s.link.hunting ∧ (takeAllTriggers s).link.gathered = s.link.gathered ∧
    (takeAllTriggers s).link.held = s.link.held ∧ (takeAllTriggers s).link.resetCause = s.link.resetCause ∧
    (takeAllTriggers s).link.sent = s.link.sent ∧ owed (takeAllTriggers s).link = owed s.link := by
  simp [takeAllTriggers]

@[simp] theorem startPeriod_frame (s : State) :
    (startPeriod s).pending = s.pending ∧ (startPeriod s).now = s.now ∧ (startPeriod s).plan = s.plan ∧
    (startPeriod s).session = s.session ∧ (startPeriod s).table = s.table ∧ (startPeriod s).lanes = s.lanes ∧
    (startPeriod s).governor = s.governor ∧ (startPeriod s).locks = s.locks ∧ (startPeriod s).pool = s.pool ∧
    (startPeriod s).queue = s.queue ∧ (startPeriod s).chans = s.chans ∧ (startPeriod s).stripSent = s.stripSent ∧
    (startPeriod s).losses = s.losses ∧ (startPeriod s).monitors = s.monitors ∧ (startPeriod s).link = s.link ∧
    (startPeriod s).mail = s.mail := by
  simp [startPeriod]

@[simp] theorem stopPeriod_frame (s : State) :
    (stopPeriod s).pending = s.pending ∧ (stopPeriod s).now = s.now ∧ (stopPeriod s).plan = s.plan ∧
    (stopPeriod s).session = s.session ∧ (stopPeriod s).table = s.table ∧ (stopPeriod s).lanes = s.lanes ∧
    (stopPeriod s).governor = s.governor ∧ (stopPeriod s).locks = s.locks ∧ (stopPeriod s).pool = s.pool ∧
    (stopPeriod s).queue = s.queue ∧ (stopPeriod s).chans = s.chans ∧ (stopPeriod s).stripSent = s.stripSent ∧
    (stopPeriod s).losses = s.losses ∧ (stopPeriod s).monitors = s.monitors ∧ (stopPeriod s).link = s.link ∧
    (stopPeriod s).mail = s.mail := by
  simp [stopPeriod]

@[simp] theorem quietWriter_frame (s : State) :
    (quietWriter s).pending = s.pending ∧ (quietWriter s).now = s.now ∧ (quietWriter s).plan = s.plan ∧
    (quietWriter s).session = s.session ∧ (quietWriter s).table = s.table ∧ (quietWriter s).lanes = s.lanes ∧
    (quietWriter s).governor = s.governor ∧ (quietWriter s).locks = s.locks ∧ (quietWriter s).pool = s.pool ∧
    (quietWriter s).queue = s.queue ∧ (quietWriter s).chans = s.chans ∧ (quietWriter s).stripSent = s.stripSent ∧
    (quietWriter s).losses = s.losses ∧ (quietWriter s).monitors = s.monitors ∧ (quietWriter s).link = s.link ∧
    (quietWriter s).mail = s.mail := by
  simp [quietWriter]

@[simp] theorem completionCheck_frame (s : State) :
    (completionCheck s).pending = s.pending ∧ (completionCheck s).now = s.now ∧ (completionCheck s).plan = s.plan ∧
    (completionCheck s).table = s.table ∧ (completionCheck s).lanes = s.lanes ∧ (completionCheck s).governor = s.governor ∧
    (completionCheck s).locks = s.locks ∧ (completionCheck s).queue = s.queue ∧ (completionCheck s).stripSent = s.stripSent ∧
    (completionCheck s).losses = s.losses ∧ (completionCheck s).monitors = s.monitors ∧
    (completionCheck s).mail.claims = s.mail.claims ∧ (completionCheck s).mail.answers = s.mail.answers ∧
    (completionCheck s).mail.grants = s.mail.grants ∧ (completionCheck s).mail.triggers = s.mail.triggers ∧
    (completionCheck s).mail.signals = s.mail.signals ∧ (completionCheck s).link.hunting = s.link.hunting ∧
    (completionCheck s).link.gathered = s.link.gathered ∧ (completionCheck s).link.held = s.link.held ∧
    (completionCheck s).link.resetCause = s.link.resetCause ∧ (completionCheck s).link.sent = s.link.sent ∧
    owed (completionCheck s).link = owed s.link := by
  unfold completionCheck
  try dsimp only
  (repeat' split) <;> simp

@[simp] theorem enterRunning_frame (s : State) :
    (enterRunning s).pending = s.pending ∧ (enterRunning s).now = s.now ∧ (enterRunning s).plan = s.plan ∧
    (enterRunning s).table = s.table ∧ (enterRunning s).governor = s.governor ∧ (enterRunning s).locks = s.locks ∧
    (enterRunning s).queue = s.queue ∧ (enterRunning s).stripSent = s.stripSent ∧ (enterRunning s).losses = s.losses ∧
    (enterRunning s).monitors = s.monitors ∧ (enterRunning s).mail.answers = s.mail.answers ∧
    (enterRunning s).mail.grants = s.mail.grants ∧ (enterRunning s).mail.triggers = s.mail.triggers ∧
    (enterRunning s).mail.signals = s.mail.signals ∧ (enterRunning s).link.hunting = s.link.hunting ∧
    (enterRunning s).link.gathered = s.link.gathered ∧ (enterRunning s).link.held = s.link.held ∧
    (enterRunning s).link.resetCause = s.link.resetCause ∧ (enterRunning s).link.sent = s.link.sent ∧
    owed (enterRunning s).link = owed s.link := by
  simp [enterRunning]

@[simp] theorem lanesParkedReport_frame (s : State) :
    (lanesParkedReport s).pending = s.pending ∧ (lanesParkedReport s).now = s.now ∧ (lanesParkedReport s).plan = s.plan ∧
    (lanesParkedReport s).table = s.table ∧ (lanesParkedReport s).lanes = s.lanes ∧ (lanesParkedReport s).governor = s.governor ∧
    (lanesParkedReport s).locks = s.locks ∧ (lanesParkedReport s).queue = s.queue ∧ (lanesParkedReport s).stripSent = s.stripSent ∧
    (lanesParkedReport s).losses = s.losses ∧ (lanesParkedReport s).monitors = s.monitors ∧
    (lanesParkedReport s).mail.claims = s.mail.claims ∧ (lanesParkedReport s).mail.answers = s.mail.answers ∧
    (lanesParkedReport s).mail.grants = s.mail.grants ∧
    (lanesParkedReport s).mail.signals = s.mail.signals ∧ (lanesParkedReport s).link.hunting = s.link.hunting ∧
    (lanesParkedReport s).link.gathered = s.link.gathered ∧ (lanesParkedReport s).link.held = s.link.held ∧
    (lanesParkedReport s).link.resetCause = s.link.resetCause ∧ (lanesParkedReport s).link.sent = s.link.sent ∧
    owed (lanesParkedReport s).link = owed s.link := by
  unfold lanesParkedReport
  try dsimp only
  (repeat' split) <;> simp

@[simp] theorem reportIfParked_frame (s : State) :
    (reportIfParked s).pending = s.pending ∧ (reportIfParked s).now = s.now ∧ (reportIfParked s).plan = s.plan ∧
    (reportIfParked s).table = s.table ∧ (reportIfParked s).lanes = s.lanes ∧ (reportIfParked s).governor = s.governor ∧
    (reportIfParked s).locks = s.locks ∧ (reportIfParked s).queue = s.queue ∧ (reportIfParked s).stripSent = s.stripSent ∧
    (reportIfParked s).losses = s.losses ∧ (reportIfParked s).monitors = s.monitors ∧ (reportIfParked s).mail.claims = s.mail.claims ∧
    (reportIfParked s).mail.answers = s.mail.answers ∧ (reportIfParked s).mail.grants = s.mail.grants ∧
    (reportIfParked s).mail.signals = s.mail.signals ∧
    (reportIfParked s).link.hunting = s.link.hunting ∧ (reportIfParked s).link.gathered = s.link.gathered ∧
    (reportIfParked s).link.held = s.link.held ∧ (reportIfParked s).link.resetCause = s.link.resetCause ∧
    (reportIfParked s).link.sent = s.link.sent ∧ owed (reportIfParked s).link = owed s.link := by
  unfold reportIfParked
  try dsimp only
  (repeat' split) <;> simp

@[simp] theorem enterPausing_frame (cause : PauseCause) (s : State) :
    (enterPausing cause s).pending = s.pending ∧ (enterPausing cause s).now = s.now ∧ (enterPausing cause s).plan = s.plan ∧
    (enterPausing cause s).table = s.table ∧ (enterPausing cause s).lanes = s.lanes ∧ (enterPausing cause s).governor = s.governor ∧
    (enterPausing cause s).locks = s.locks ∧ (enterPausing cause s).pool = s.pool ∧ (enterPausing cause s).queue = s.queue ∧
    (enterPausing cause s).chans = s.chans ∧ (enterPausing cause s).stripSent = s.stripSent ∧
    (enterPausing cause s).losses = s.losses ∧ (enterPausing cause s).monitors = s.monitors ∧ (enterPausing cause s).mail = s.mail ∧
    (enterPausing cause s).link.hunting = s.link.hunting ∧ (enterPausing cause s).link.gathered = s.link.gathered ∧
    (enterPausing cause s).link.held = s.link.held ∧ (enterPausing cause s).link.resetCause = s.link.resetCause ∧
    (enterPausing cause s).link.sent = s.link.sent ∧ owed (enterPausing cause s).link = owed s.link := by
  simp [enterPausing]

@[simp] theorem raiseLossLimit_frame (s : State) :
    (raiseLossLimit s).pending = s.pending ∧ (raiseLossLimit s).now = s.now ∧ (raiseLossLimit s).plan = s.plan ∧
    (raiseLossLimit s).session = s.session ∧ (raiseLossLimit s).table = s.table ∧ (raiseLossLimit s).lanes = s.lanes ∧
    (raiseLossLimit s).governor = s.governor ∧ (raiseLossLimit s).locks = s.locks ∧ (raiseLossLimit s).pool = s.pool ∧
    (raiseLossLimit s).queue = s.queue ∧ (raiseLossLimit s).chans = s.chans ∧ (raiseLossLimit s).stripSent = s.stripSent ∧
    (raiseLossLimit s).losses = s.losses ∧ (raiseLossLimit s).writer = s.writer ∧ (raiseLossLimit s).monitors = s.monitors ∧
    (raiseLossLimit s).mail = s.mail ∧ (raiseLossLimit s).link.hunting = s.link.hunting ∧
    (raiseLossLimit s).link.gathered = s.link.gathered ∧ (raiseLossLimit s).link.held = s.link.held ∧
    (raiseLossLimit s).link.resetCause = s.link.resetCause ∧ (raiseLossLimit s).link.sent = s.link.sent ∧
    owed (raiseLossLimit s).link = owed s.link := by
  simp [raiseLossLimit]

@[simp] theorem takeLossReport_frame (s : State) :
    (takeLossReport s).pending = s.pending ∧ (takeLossReport s).now = s.now ∧ (takeLossReport s).plan = s.plan ∧
    (takeLossReport s).table = s.table ∧ (takeLossReport s).lanes = s.lanes ∧ (takeLossReport s).governor = s.governor ∧
    (takeLossReport s).locks = s.locks ∧ (takeLossReport s).queue = s.queue ∧ (takeLossReport s).stripSent = s.stripSent ∧
    (takeLossReport s).losses = s.losses ∧ (takeLossReport s).monitors = s.monitors ∧ (takeLossReport s).mail.claims = s.mail.claims ∧
    (takeLossReport s).mail.answers = s.mail.answers ∧ (takeLossReport s).mail.grants = s.mail.grants ∧
    (takeLossReport s).mail.signals = s.mail.signals ∧
    (takeLossReport s).link.hunting = s.link.hunting ∧ (takeLossReport s).link.gathered = s.link.gathered ∧
    (takeLossReport s).link.held = s.link.held ∧ (takeLossReport s).link.resetCause = s.link.resetCause ∧
    (takeLossReport s).link.sent = s.link.sent ∧ owed (takeLossReport s).link = owed s.link := by
  unfold takeLossReport
  try dsimp only
  (repeat' split) <;> simp

@[simp] theorem returnToIdle_frame (s : State) :
    (returnToIdle s).pending = s.pending ∧ (returnToIdle s).now = s.now ∧ (returnToIdle s).plan = s.plan ∧
    (returnToIdle s).lanes = s.lanes ∧ (returnToIdle s).governor = s.governor ∧ (returnToIdle s).locks = s.locks ∧
    (returnToIdle s).pool = s.pool ∧ (returnToIdle s).queue = s.queue ∧ (returnToIdle s).stripSent = s.stripSent ∧
    (returnToIdle s).monitors = s.monitors ∧ (returnToIdle s).mail.endings = s.mail.endings ∧
    (returnToIdle s).mail.grants = s.mail.grants ∧ (returnToIdle s).mail.reservations = s.mail.reservations ∧
    (returnToIdle s).mail.signals = s.mail.signals ∧ (returnToIdle s).link.hunting = s.link.hunting ∧
    (returnToIdle s).link.gathered = s.link.gathered ∧ (returnToIdle s).link.held = s.link.held ∧
    (returnToIdle s).link.resetCause = s.link.resetCause ∧ (returnToIdle s).link.sent = s.link.sent ∧
    owed (returnToIdle s).link = owed s.link := by
  simp [returnToIdle]

@[simp] theorem giveRoles_frame (g : ArrayGroup) (spareRole : Role) (s : State) :
    (giveRoles g spareRole s).pending = s.pending ∧ (giveRoles g spareRole s).now = s.now ∧ (giveRoles g spareRole s).plan = s.plan ∧
    (giveRoles g spareRole s).session = s.session ∧ (giveRoles g spareRole s).table = s.table ∧
    (giveRoles g spareRole s).lanes = s.lanes ∧ (giveRoles g spareRole s).governor = s.governor ∧
    (giveRoles g spareRole s).locks = s.locks ∧ (giveRoles g spareRole s).pool = s.pool ∧ (giveRoles g spareRole s).queue = s.queue ∧
    (giveRoles g spareRole s).stripSent = s.stripSent ∧ (giveRoles g spareRole s).losses = s.losses ∧
    (giveRoles g spareRole s).writer = s.writer ∧ (giveRoles g spareRole s).monitors = s.monitors ∧
    (giveRoles g spareRole s).link = s.link ∧ (giveRoles g spareRole s).mail = s.mail := by
  simp [giveRoles]

@[simp] theorem spareBecomesMember_frame (g : ArrayGroup) (s : State) :
    (spareBecomesMember g s).pending = s.pending ∧ (spareBecomesMember g s).now = s.now ∧ (spareBecomesMember g s).plan = s.plan ∧
    (spareBecomesMember g s).session = s.session ∧ (spareBecomesMember g s).table = s.table ∧
    (spareBecomesMember g s).lanes = s.lanes ∧ (spareBecomesMember g s).governor = s.governor ∧
    (spareBecomesMember g s).locks = s.locks ∧ (spareBecomesMember g s).pool = s.pool ∧ (spareBecomesMember g s).queue = s.queue ∧
    (spareBecomesMember g s).stripSent = s.stripSent ∧ (spareBecomesMember g s).losses = s.losses ∧
    (spareBecomesMember g s).writer = s.writer ∧ (spareBecomesMember g s).monitors = s.monitors ∧
    (spareBecomesMember g s).link = s.link ∧ (spareBecomesMember g s).mail = s.mail := by
  simp [spareBecomesMember]

@[simp] theorem enterComplete_frame (s : State) :
    (enterComplete s).pending = s.pending ∧ (enterComplete s).now = s.now ∧ (enterComplete s).plan = s.plan ∧
    (enterComplete s).table = s.table ∧ (enterComplete s).lanes = s.lanes ∧ (enterComplete s).governor = s.governor ∧
    (enterComplete s).locks = s.locks ∧ (enterComplete s).pool = s.pool ∧ (enterComplete s).queue = s.queue ∧
    (enterComplete s).stripSent = s.stripSent ∧ (enterComplete s).losses = s.losses ∧ (enterComplete s).monitors = s.monitors ∧
    (enterComplete s).mail = s.mail ∧ (enterComplete s).link.hunting = s.link.hunting ∧
    (enterComplete s).link.gathered = s.link.gathered ∧ (enterComplete s).link.held = s.link.held ∧
    (enterComplete s).link.resetCause = s.link.resetCause ∧ (enterComplete s).link.sent = s.link.sent ∧
    owed (enterComplete s).link = owed s.link := by
  unfold enterComplete
  try dsimp only
  (repeat' split) <;> simp

@[simp] theorem endDraining_frame (s : State) :
    (endDraining s).pending = s.pending ∧ (endDraining s).now = s.now ∧ (endDraining s).plan = s.plan ∧
    (endDraining s).lanes = s.lanes ∧ (endDraining s).governor = s.governor ∧ (endDraining s).locks = s.locks ∧
    (endDraining s).pool = s.pool ∧ (endDraining s).queue = s.queue ∧ (endDraining s).stripSent = s.stripSent ∧
    (endDraining s).monitors = s.monitors ∧ (endDraining s).mail.endings = s.mail.endings ∧
    (endDraining s).mail.grants = s.mail.grants ∧ (endDraining s).mail.reservations = s.mail.reservations ∧
    (endDraining s).mail.signals = s.mail.signals ∧ (endDraining s).link.hunting = s.link.hunting ∧
    (endDraining s).link.gathered = s.link.gathered ∧ (endDraining s).link.held = s.link.held ∧
    (endDraining s).link.resetCause = s.link.resetCause ∧ (endDraining s).link.sent = s.link.sent := by
  simp [endDraining]

@[simp] theorem setLosses_frame (ls : List LossRec) (s : State) :
    (setLosses ls s).pending = s.pending ∧ (setLosses ls s).now = s.now ∧ (setLosses ls s).plan = s.plan ∧
    (setLosses ls s).session = s.session ∧ (setLosses ls s).table = s.table ∧ (setLosses ls s).lanes = s.lanes ∧
    (setLosses ls s).governor = s.governor ∧ (setLosses ls s).locks = s.locks ∧ (setLosses ls s).pool = s.pool ∧
    (setLosses ls s).queue = s.queue ∧ (setLosses ls s).chans = s.chans ∧ (setLosses ls s).stripSent = s.stripSent ∧
    (setLosses ls s).writer = s.writer ∧ (setLosses ls s).monitors = s.monitors ∧ (setLosses ls s).link = s.link ∧
    (setLosses ls s).mail = s.mail := by
  simp [setLosses]

@[simp] theorem consultLimit_frame (s : State) :
    (consultLimit s).pending = s.pending ∧ (consultLimit s).now = s.now ∧ (consultLimit s).plan = s.plan ∧
    (consultLimit s).table = s.table ∧ (consultLimit s).lanes = s.lanes ∧ (consultLimit s).governor = s.governor ∧
    (consultLimit s).locks = s.locks ∧ (consultLimit s).queue = s.queue ∧ (consultLimit s).stripSent = s.stripSent ∧
    (consultLimit s).losses = s.losses ∧ (consultLimit s).monitors = s.monitors ∧ (consultLimit s).mail.claims = s.mail.claims ∧
    (consultLimit s).mail.answers = s.mail.answers ∧ (consultLimit s).mail.grants = s.mail.grants ∧
    (consultLimit s).mail.signals = s.mail.signals ∧
    (consultLimit s).link.hunting = s.link.hunting ∧ (consultLimit s).link.gathered = s.link.gathered ∧
    (consultLimit s).link.held = s.link.held ∧ (consultLimit s).link.resetCause = s.link.resetCause ∧
    (consultLimit s).link.sent = s.link.sent ∧ owed (consultLimit s).link = owed s.link := by
  unfold consultLimit
  try dsimp only
  (repeat' split) <;> simp

@[simp] theorem addLoss_frame (g : ArrayGroup) (stripe : Nat) (x : LostRange) (s : State) :
    (addLoss g stripe x s).pending = s.pending ∧ (addLoss g stripe x s).now = s.now ∧ (addLoss g stripe x s).plan = s.plan ∧
    (addLoss g stripe x s).table = s.table ∧ (addLoss g stripe x s).lanes = s.lanes ∧ (addLoss g stripe x s).governor = s.governor ∧
    (addLoss g stripe x s).locks = s.locks ∧ (addLoss g stripe x s).queue = s.queue ∧ (addLoss g stripe x s).stripSent = s.stripSent ∧
    (addLoss g stripe x s).monitors = s.monitors ∧ (addLoss g stripe x s).mail.claims = s.mail.claims ∧
    (addLoss g stripe x s).mail.answers = s.mail.answers ∧ (addLoss g stripe x s).mail.grants = s.mail.grants ∧
    (addLoss g stripe x s).mail.signals = s.mail.signals ∧
    (addLoss g stripe x s).link.hunting = s.link.hunting ∧ (addLoss g stripe x s).link.gathered = s.link.gathered ∧
    (addLoss g stripe x s).link.held = s.link.held ∧ (addLoss g stripe x s).link.resetCause = s.link.resetCause ∧
    (addLoss g stripe x s).link.sent = s.link.sent ∧ owed (addLoss g stripe x s).link = owed s.link := by
  unfold addLoss
  try dsimp only
  (repeat' split) <;> simp

@[simp] theorem removeLoss_frame (stripe : Nat) (s : State) :
    (removeLoss stripe s).pending = s.pending ∧ (removeLoss stripe s).now = s.now ∧ (removeLoss stripe s).plan = s.plan ∧
    (removeLoss stripe s).session = s.session ∧ (removeLoss stripe s).table = s.table ∧ (removeLoss stripe s).lanes = s.lanes ∧
    (removeLoss stripe s).governor = s.governor ∧ (removeLoss stripe s).locks = s.locks ∧ (removeLoss stripe s).pool = s.pool ∧
    (removeLoss stripe s).queue = s.queue ∧ (removeLoss stripe s).chans = s.chans ∧ (removeLoss stripe s).stripSent = s.stripSent ∧
    (removeLoss stripe s).writer = s.writer ∧ (removeLoss stripe s).monitors = s.monitors ∧ (removeLoss stripe s).mail = s.mail ∧
    (removeLoss stripe s).link.hunting = s.link.hunting ∧ (removeLoss stripe s).link.gathered = s.link.gathered ∧
    (removeLoss stripe s).link.held = s.link.held ∧ (removeLoss stripe s).link.resetCause = s.link.resetCause ∧
    (removeLoss stripe s).link.sent = s.link.sent ∧ owed (removeLoss stripe s).link = owed s.link := by
  unfold removeLoss
  try dsimp only
  (repeat' split) <;> simp

@[simp] theorem reportPark_frame (l : Lane) (s : State) :
    (reportPark l s).pending = s.pending ∧ (reportPark l s).now = s.now ∧ (reportPark l s).plan = s.plan ∧
    (reportPark l s).table = s.table ∧ (reportPark l s).locks = s.locks ∧ (reportPark l s).queue = s.queue ∧
    (reportPark l s).stripSent = s.stripSent ∧ (reportPark l s).losses = s.losses ∧ (reportPark l s).monitors = s.monitors ∧
    (reportPark l s).mail.answers = s.mail.answers ∧ (reportPark l s).mail.grants = s.mail.grants ∧
    (reportPark l s).mail.signals = s.mail.signals ∧
    (reportPark l s).link.hunting = s.link.hunting ∧ (reportPark l s).link.gathered = s.link.gathered ∧
    (reportPark l s).link.held = s.link.held ∧ (reportPark l s).link.resetCause = s.link.resetCause ∧
    (reportPark l s).link.sent = s.link.sent ∧ owed (reportPark l s).link = owed s.link := by
  unfold reportPark
  try dsimp only
  (repeat' split) <;> simp

@[simp] theorem releaseHeld_frame (x : Option Nat) (s : State) :
    (releaseHeld x s).pending = s.pending ∧ (releaseHeld x s).now = s.now ∧ (releaseHeld x s).plan = s.plan ∧
    (releaseHeld x s).session = s.session ∧ (releaseHeld x s).governor = s.governor ∧ (releaseHeld x s).locks = s.locks ∧
    (releaseHeld x s).pool = s.pool ∧ (releaseHeld x s).queue = s.queue ∧ (releaseHeld x s).chans = s.chans ∧
    (releaseHeld x s).stripSent = s.stripSent ∧ (releaseHeld x s).losses = s.losses ∧ (releaseHeld x s).writer = s.writer ∧
    (releaseHeld x s).monitors = s.monitors ∧ (releaseHeld x s).mail.endings = s.mail.endings ∧
    (releaseHeld x s).mail.told = s.mail.told ∧ (releaseHeld x s).mail.answers = s.mail.answers ∧
    (releaseHeld x s).mail.grants = s.mail.grants ∧ (releaseHeld x s).mail.reservations = s.mail.reservations ∧
    (releaseHeld x s).mail.triggers = s.mail.triggers ∧ (releaseHeld x s).mail.signals = s.mail.signals ∧
    (releaseHeld x s).link.hunting = s.link.hunting ∧ (releaseHeld x s).link.gathered = s.link.gathered ∧
    (releaseHeld x s).link.held = s.link.held ∧ (releaseHeld x s).link.resetCause = s.link.resetCause ∧
    (releaseHeld x s).link.sent = s.link.sent ∧ owed (releaseHeld x s).link = owed s.link := by
  unfold releaseHeld
  try dsimp only
  (repeat' split) <;> simp

@[simp] theorem parkLane_frame (l : Lane) (s : State) :
    (parkLane l s).pending = s.pending ∧ (parkLane l s).now = s.now ∧ (parkLane l s).plan = s.plan ∧ (parkLane l s).locks = s.locks ∧
    (parkLane l s).queue = s.queue ∧ (parkLane l s).stripSent = s.stripSent ∧ (parkLane l s).losses = s.losses ∧
    (parkLane l s).monitors = s.monitors ∧ (parkLane l s).mail.answers = s.mail.answers ∧ (parkLane l s).mail.grants = s.mail.grants ∧
    (parkLane l s).mail.signals = s.mail.signals ∧
    (parkLane l s).link.hunting = s.link.hunting ∧ (parkLane l s).link.gathered = s.link.gathered ∧
    (parkLane l s).link.held = s.link.held ∧ (parkLane l s).link.resetCause = s.link.resetCause ∧
    (parkLane l s).link.sent = s.link.sent ∧ owed (parkLane l s).link = owed s.link := by
  simp [parkLane]

@[simp] theorem releaseLaneLock_frame (l : Lane) (s : State) :
    (releaseLaneLock l s).pending = s.pending ∧ (releaseLaneLock l s).now = s.now ∧ (releaseLaneLock l s).plan = s.plan ∧
    (releaseLaneLock l s).session = s.session ∧ (releaseLaneLock l s).table = s.table ∧ (releaseLaneLock l s).lanes = s.lanes ∧
    (releaseLaneLock l s).governor = s.governor ∧ (releaseLaneLock l s).pool = s.pool ∧ (releaseLaneLock l s).queue = s.queue ∧
    (releaseLaneLock l s).chans = s.chans ∧ (releaseLaneLock l s).stripSent = s.stripSent ∧ (releaseLaneLock l s).losses = s.losses ∧
    (releaseLaneLock l s).writer = s.writer ∧ (releaseLaneLock l s).monitors = s.monitors ∧ (releaseLaneLock l s).link = s.link ∧
    (releaseLaneLock l s).mail.endings = s.mail.endings ∧ (releaseLaneLock l s).mail.told = s.mail.told ∧
    (releaseLaneLock l s).mail.claims = s.mail.claims ∧ (releaseLaneLock l s).mail.answers = s.mail.answers ∧
    (releaseLaneLock l s).mail.reservations = s.mail.reservations ∧ (releaseLaneLock l s).mail.triggers = s.mail.triggers ∧
    (releaseLaneLock l s).mail.signals = s.mail.signals := by
  unfold releaseLaneLock
  try dsimp only
  (repeat' split) <;> simp

@[simp] theorem withdrawLaneLock_frame (l : Lane) (s : State) :
    (withdrawLaneLock l s).pending = s.pending ∧ (withdrawLaneLock l s).now = s.now ∧ (withdrawLaneLock l s).plan = s.plan ∧
    (withdrawLaneLock l s).session = s.session ∧ (withdrawLaneLock l s).table = s.table ∧ (withdrawLaneLock l s).lanes = s.lanes ∧
    (withdrawLaneLock l s).governor = s.governor ∧ (withdrawLaneLock l s).pool = s.pool ∧ (withdrawLaneLock l s).queue = s.queue ∧
    (withdrawLaneLock l s).chans = s.chans ∧ (withdrawLaneLock l s).stripSent = s.stripSent ∧
    (withdrawLaneLock l s).losses = s.losses ∧ (withdrawLaneLock l s).writer = s.writer ∧
    (withdrawLaneLock l s).monitors = s.monitors ∧ (withdrawLaneLock l s).link = s.link ∧
    (withdrawLaneLock l s).mail.endings = s.mail.endings ∧ (withdrawLaneLock l s).mail.told = s.mail.told ∧
    (withdrawLaneLock l s).mail.claims = s.mail.claims ∧ (withdrawLaneLock l s).mail.answers = s.mail.answers ∧
    (withdrawLaneLock l s).mail.reservations = s.mail.reservations ∧ (withdrawLaneLock l s).mail.triggers = s.mail.triggers ∧
    (withdrawLaneLock l s).mail.signals = s.mail.signals := by
  unfold withdrawLaneLock
  try dsimp only
  (repeat' split) <;> simp

@[simp] theorem letGo_frame (l : Lane) (s : State) :
    (letGo l s).pending = s.pending ∧ (letGo l s).now = s.now ∧ (letGo l s).plan = s.plan ∧ (letGo l s).session = s.session ∧
    (letGo l s).governor = s.governor ∧ (letGo l s).queue = s.queue ∧ (letGo l s).stripSent = s.stripSent ∧
    (letGo l s).losses = s.losses ∧ (letGo l s).writer = s.writer ∧ (letGo l s).monitors = s.monitors ∧
    (letGo l s).mail.told = s.mail.told ∧ (letGo l s).mail.answers = s.mail.answers ∧ (letGo l s).mail.triggers = s.mail.triggers ∧
    (letGo l s).mail.signals = s.mail.signals ∧ (letGo l s).link.hunting = s.link.hunting ∧
    (letGo l s).link.gathered = s.link.gathered ∧ (letGo l s).link.held = s.link.held ∧
    (letGo l s).link.resetCause = s.link.resetCause ∧ (letGo l s).link.sent = s.link.sent ∧ owed (letGo l s).link = owed s.link := by
  unfold letGo
  try dsimp only
  (repeat' split) <;> simp

@[simp] theorem parkAtOnce_frame (l : Lane) (s : State) :
    (parkAtOnce l s).pending = s.pending ∧ (parkAtOnce l s).now = s.now ∧ (parkAtOnce l s).plan = s.plan ∧
    (parkAtOnce l s).queue = s.queue ∧ (parkAtOnce l s).stripSent = s.stripSent ∧ (parkAtOnce l s).losses = s.losses ∧
    (parkAtOnce l s).monitors = s.monitors ∧ (parkAtOnce l s).mail.answers = s.mail.answers ∧
    (parkAtOnce l s).mail.signals = s.mail.signals ∧
    (parkAtOnce l s).link.hunting = s.link.hunting ∧ (parkAtOnce l s).link.gathered = s.link.gathered ∧
    (parkAtOnce l s).link.held = s.link.held ∧ (parkAtOnce l s).link.resetCause = s.link.resetCause ∧
    (parkAtOnce l s).link.sent = s.link.sent ∧ owed (parkAtOnce l s).link = owed s.link := by
  unfold parkAtOnce
  try dsimp only
  (repeat' split) <;> simp

@[simp] theorem parkAll_frame (s : State) :
    (parkAll s).pending = s.pending ∧ (parkAll s).now = s.now ∧ (parkAll s).plan = s.plan ∧ (parkAll s).queue = s.queue ∧
    (parkAll s).stripSent = s.stripSent ∧ (parkAll s).losses = s.losses ∧ (parkAll s).monitors = s.monitors ∧
    (parkAll s).mail.answers = s.mail.answers ∧
    (parkAll s).mail.signals = s.mail.signals ∧ (parkAll s).link.hunting = s.link.hunting ∧
    (parkAll s).link.gathered = s.link.gathered ∧ (parkAll s).link.held = s.link.held ∧
    (parkAll s).link.resetCause = s.link.resetCause ∧ (parkAll s).link.sent = s.link.sent ∧ owed (parkAll s).link = owed s.link := by
  simp [parkAll]

@[simp] theorem enterBufferWait_frame (g : ArrayGroup) (l : Lane) (s : State) :
    (enterBufferWait g l s).pending = s.pending ∧ (enterBufferWait g l s).now = s.now ∧ (enterBufferWait g l s).plan = s.plan ∧
    (enterBufferWait g l s).session = s.session ∧ (enterBufferWait g l s).table = s.table ∧
    (enterBufferWait g l s).governor = s.governor ∧ (enterBufferWait g l s).locks = s.locks ∧ (enterBufferWait g l s).queue = s.queue ∧
    (enterBufferWait g l s).chans = s.chans ∧ (enterBufferWait g l s).stripSent = s.stripSent ∧
    (enterBufferWait g l s).losses = s.losses ∧ (enterBufferWait g l s).writer = s.writer ∧
    (enterBufferWait g l s).mail.endings = s.mail.endings ∧ (enterBufferWait g l s).mail.told = s.mail.told ∧
    (enterBufferWait g l s).mail.claims = s.mail.claims ∧ (enterBufferWait g l s).mail.answers = s.mail.answers ∧
    (enterBufferWait g l s).mail.grants = s.mail.grants ∧ (enterBufferWait g l s).mail.triggers = s.mail.triggers ∧
    (enterBufferWait g l s).link.hunting = s.link.hunting ∧ (enterBufferWait g l s).link.gathered = s.link.gathered ∧
    (enterBufferWait g l s).link.held = s.link.held ∧ (enterBufferWait g l s).link.resetCause = s.link.resetCause ∧
    (enterBufferWait g l s).link.sent = s.link.sent ∧ owed (enterBufferWait g l s).link = owed s.link := by
  simp [enterBufferWait]

@[simp] theorem seekLock_frame (g : ArrayGroup) (l : Lane) (stripe : Nat) (s : State) :
    (seekLock g l stripe s).pending = s.pending ∧ (seekLock g l stripe s).now = s.now ∧ (seekLock g l stripe s).plan = s.plan ∧
    (seekLock g l stripe s).session = s.session ∧ (seekLock g l stripe s).table = s.table ∧
    (seekLock g l stripe s).governor = s.governor ∧ (seekLock g l stripe s).queue = s.queue ∧ (seekLock g l stripe s).chans = s.chans ∧
    (seekLock g l stripe s).stripSent = s.stripSent ∧ (seekLock g l stripe s).losses = s.losses ∧
    (seekLock g l stripe s).writer = s.writer ∧ (seekLock g l stripe s).mail.endings = s.mail.endings ∧
    (seekLock g l stripe s).mail.told = s.mail.told ∧ (seekLock g l stripe s).mail.claims = s.mail.claims ∧
    (seekLock g l stripe s).mail.answers = s.mail.answers ∧ (seekLock g l stripe s).mail.grants = s.mail.grants ∧
    (seekLock g l stripe s).mail.triggers = s.mail.triggers ∧ (seekLock g l stripe s).link.hunting = s.link.hunting ∧
    (seekLock g l stripe s).link.gathered = s.link.gathered ∧ (seekLock g l stripe s).link.held = s.link.held ∧
    (seekLock g l stripe s).link.resetCause = s.link.resetCause ∧ (seekLock g l stripe s).link.sent = s.link.sent ∧
    owed (seekLock g l stripe s).link = owed s.link := by
  unfold seekLock
  try dsimp only
  (repeat' split) <;> simp

@[simp] theorem clearStripe_frame (l : Lane) (finished : Bool) (s : State) :
    (clearStripe l finished s).pending = s.pending ∧ (clearStripe l finished s).now = s.now ∧
    (clearStripe l finished s).plan = s.plan ∧ (clearStripe l finished s).session = s.session ∧
    (clearStripe l finished s).table = s.table ∧ (clearStripe l finished s).governor = s.governor ∧
    (clearStripe l finished s).locks = s.locks ∧ (clearStripe l finished s).pool = s.pool ∧
    (clearStripe l finished s).queue = s.queue ∧ (clearStripe l finished s).chans = s.chans ∧
    (clearStripe l finished s).stripSent = s.stripSent ∧ (clearStripe l finished s).losses = s.losses ∧
    (clearStripe l finished s).writer = s.writer ∧ (clearStripe l finished s).monitors = s.monitors ∧
    (clearStripe l finished s).link = s.link ∧ (clearStripe l finished s).mail = s.mail := by
  unfold clearStripe
  try dsimp only
  (repeat' split) <;> simp

@[simp] theorem beginStripe_frame (g : ArrayGroup) (l : Lane) (x_1 : Nat) (s : State) :
    (beginStripe g l x_1 s).pending = s.pending ∧ (beginStripe g l x_1 s).now = s.now ∧ (beginStripe g l x_1 s).plan = s.plan ∧
    (beginStripe g l x_1 s).queue = s.queue ∧ (beginStripe g l x_1 s).stripSent = s.stripSent ∧
    (beginStripe g l x_1 s).losses = s.losses ∧ (beginStripe g l x_1 s).mail.answers = s.mail.answers ∧
    (beginStripe g l x_1 s).mail.grants = s.mail.grants ∧ (beginStripe g l x_1 s).link.hunting = s.link.hunting ∧
    (beginStripe g l x_1 s).link.gathered = s.link.gathered ∧ (beginStripe g l x_1 s).link.held = s.link.held ∧
    (beginStripe g l x_1 s).link.resetCause = s.link.resetCause ∧ (beginStripe g l x_1 s).link.sent = s.link.sent ∧
    owed (beginStripe g l x_1 s).link = owed s.link := by
  induction x_1 generalizing s with
  | zero => simp [beginStripe]
  | succ n ih =>
    unfold beginStripe
    simp only [decideBoundary]
    (repeat' split) <;> simp [ih]

@[simp] theorem takeUpStripe_frame (g : ArrayGroup) (l : Lane) (s : State) :
    (takeUpStripe g l s).pending = s.pending ∧ (takeUpStripe g l s).now = s.now ∧ (takeUpStripe g l s).plan = s.plan ∧
    (takeUpStripe g l s).queue = s.queue ∧ (takeUpStripe g l s).stripSent = s.stripSent ∧ (takeUpStripe g l s).losses = s.losses ∧
    (takeUpStripe g l s).mail.answers = s.mail.answers ∧ (takeUpStripe g l s).mail.grants = s.mail.grants ∧
    (takeUpStripe g l s).link.hunting = s.link.hunting ∧ (takeUpStripe g l s).link.gathered = s.link.gathered ∧
    (takeUpStripe g l s).link.held = s.link.held ∧ (takeUpStripe g l s).link.resetCause = s.link.resetCause ∧
    (takeUpStripe g l s).link.sent = s.link.sent ∧ owed (takeUpStripe g l s).link = owed s.link := by
  simp [takeUpStripe]

@[simp] theorem boundary_frame (g : ArrayGroup) (l : Lane) (finished : Bool) (s : State) :
    (boundary g l finished s).pending = s.pending ∧ (boundary g l finished s).now = s.now ∧ (boundary g l finished s).plan = s.plan ∧
    (boundary g l finished s).queue = s.queue ∧ (boundary g l finished s).stripSent = s.stripSent ∧
    (boundary g l finished s).losses = s.losses ∧ (boundary g l finished s).mail.answers = s.mail.answers ∧
    (boundary g l finished s).mail.grants = s.mail.grants ∧ (boundary g l finished s).link.hunting = s.link.hunting ∧
    (boundary g l finished s).link.gathered = s.link.gathered ∧ (boundary g l finished s).link.held = s.link.held ∧
    (boundary g l finished s).link.resetCause = s.link.resetCause ∧ (boundary g l finished s).link.sent = s.link.sent ∧
    owed (boundary g l finished s).link = owed s.link := by
  unfold boundary decideBoundary
  (repeat' split) <;> simp

@[simp] theorem enterReading_frame (g : ArrayGroup) (l : Lane) (stripe : Nat) (s : State) :
    (enterReading g l stripe s).pending = s.pending ∧ (enterReading g l stripe s).now = s.now ∧
    (enterReading g l stripe s).plan = s.plan ∧ (enterReading g l stripe s).session = s.session ∧
    (enterReading g l stripe s).table = s.table ∧ (enterReading g l stripe s).governor = s.governor ∧
    (enterReading g l stripe s).locks = s.locks ∧ (enterReading g l stripe s).pool = s.pool ∧
    (enterReading g l stripe s).queue = s.queue ∧ (enterReading g l stripe s).stripSent = s.stripSent ∧
    (enterReading g l stripe s).losses = s.losses ∧ (enterReading g l stripe s).writer = s.writer ∧
    (enterReading g l stripe s).monitors = s.monitors ∧ (enterReading g l stripe s).link = s.link ∧
    (enterReading g l stripe s).mail.told = s.mail.told ∧ (enterReading g l stripe s).mail.claims = s.mail.claims ∧
    (enterReading g l stripe s).mail.answers = s.mail.answers ∧ (enterReading g l stripe s).mail.grants = s.mail.grants ∧
    (enterReading g l stripe s).mail.reservations = s.mail.reservations ∧ (enterReading g l stripe s).mail.triggers = s.mail.triggers ∧
    (enterReading g l stripe s).mail.signals = s.mail.signals := by
  unfold enterReading
  try dsimp only
  simp [foldl_keeps State.pending, foldl_keeps State.now, foldl_keeps State.plan, foldl_keeps State.session, foldl_keeps State.table,
      foldl_keeps State.governor, foldl_keeps State.locks, foldl_keeps State.pool, foldl_keeps State.queue,
      foldl_keeps State.stripSent, foldl_keeps State.losses, foldl_keeps State.writer, foldl_keeps State.monitors,
      foldl_keeps State.link, foldl_keeps (fun t => t.mail.told), foldl_keeps (fun t => t.mail.claims),
      foldl_keeps (fun t => t.mail.answers), foldl_keeps (fun t => t.mail.grants), foldl_keeps (fun t => t.mail.reservations),
      foldl_keeps (fun t => t.mail.triggers), foldl_keeps (fun t => t.mail.signals)]

@[simp] theorem compose_frame (g : ArrayGroup) (l : Lane) (stripe : Nat) (s : State) :
    (compose g l stripe s).pending = s.pending ∧ (compose g l stripe s).now = s.now ∧ (compose g l stripe s).plan = s.plan ∧
    (compose g l stripe s).session = s.session ∧ (compose g l stripe s).table = s.table ∧
    (compose g l stripe s).governor = s.governor ∧ (compose g l stripe s).locks = s.locks ∧ (compose g l stripe s).pool = s.pool ∧
    (compose g l stripe s).queue = s.queue ∧ (compose g l stripe s).stripSent = s.stripSent ∧
    (compose g l stripe s).losses = s.losses ∧ (compose g l stripe s).writer = s.writer ∧
    (compose g l stripe s).monitors = s.monitors ∧ (compose g l stripe s).link = s.link ∧
    (compose g l stripe s).mail.told = s.mail.told ∧ (compose g l stripe s).mail.claims = s.mail.claims ∧
    (compose g l stripe s).mail.answers = s.mail.answers ∧ (compose g l stripe s).mail.grants = s.mail.grants ∧
    (compose g l stripe s).mail.reservations = s.mail.reservations ∧ (compose g l stripe s).mail.triggers = s.mail.triggers ∧
    (compose g l stripe s).mail.signals = s.mail.signals := by
  simp [compose]

@[simp] theorem composeIfReady_frame (g : ArrayGroup) (l : Lane) (stripe : Nat) (s : State) :
    (composeIfReady g l stripe s).pending = s.pending ∧ (composeIfReady g l stripe s).now = s.now ∧
    (composeIfReady g l stripe s).plan = s.plan ∧ (composeIfReady g l stripe s).session = s.session ∧
    (composeIfReady g l stripe s).table = s.table ∧ (composeIfReady g l stripe s).governor = s.governor ∧
    (composeIfReady g l stripe s).locks = s.locks ∧ (composeIfReady g l stripe s).pool = s.pool ∧
    (composeIfReady g l stripe s).queue = s.queue ∧ (composeIfReady g l stripe s).stripSent = s.stripSent ∧
    (composeIfReady g l stripe s).losses = s.losses ∧ (composeIfReady g l stripe s).writer = s.writer ∧
    (composeIfReady g l stripe s).monitors = s.monitors ∧ (composeIfReady g l stripe s).link = s.link ∧
    (composeIfReady g l stripe s).mail.told = s.mail.told ∧ (composeIfReady g l stripe s).mail.claims = s.mail.claims ∧
    (composeIfReady g l stripe s).mail.answers = s.mail.answers ∧ (composeIfReady g l stripe s).mail.grants = s.mail.grants ∧
    (composeIfReady g l stripe s).mail.reservations = s.mail.reservations ∧
    (composeIfReady g l stripe s).mail.triggers = s.mail.triggers ∧ (composeIfReady g l stripe s).mail.signals = s.mail.signals := by
  unfold composeIfReady
  try dsimp only
  (repeat' split) <;> simp

@[simp] theorem retryRead_frame (g : ArrayGroup) (l : Lane) (stripe : Nat) (c : Chan) (s : State) :
    (retryRead g l stripe c s).pending = s.pending ∧ (retryRead g l stripe c s).now = s.now ∧
    (retryRead g l stripe c s).plan = s.plan ∧ (retryRead g l stripe c s).session = s.session ∧
    (retryRead g l stripe c s).table = s.table ∧ (retryRead g l stripe c s).governor = s.governor ∧
    (retryRead g l stripe c s).locks = s.locks ∧ (retryRead g l stripe c s).pool = s.pool ∧
    (retryRead g l stripe c s).queue = s.queue ∧ (retryRead g l stripe c s).stripSent = s.stripSent ∧
    (retryRead g l stripe c s).losses = s.losses ∧ (retryRead g l stripe c s).writer = s.writer ∧
    (retryRead g l stripe c s).mail.told = s.mail.told ∧ (retryRead g l stripe c s).mail.claims = s.mail.claims ∧
    (retryRead g l stripe c s).mail.answers = s.mail.answers ∧ (retryRead g l stripe c s).mail.grants = s.mail.grants ∧
    (retryRead g l stripe c s).mail.reservations = s.mail.reservations ∧ (retryRead g l stripe c s).mail.triggers = s.mail.triggers ∧
    (retryRead g l stripe c s).link.hunting = s.link.hunting ∧ (retryRead g l stripe c s).link.gathered = s.link.gathered ∧
    (retryRead g l stripe c s).link.held = s.link.held ∧ (retryRead g l stripe c s).link.resetCause = s.link.resetCause ∧
    (retryRead g l stripe c s).link.sent = s.link.sent ∧ owed (retryRead g l stripe c s).link = owed s.link := by
  simp [retryRead]

@[simp] theorem takeLaneRead_frame (g : ArrayGroup) (l : Lane) (stripe : Nat) (c : Chan) (e : EndStatus) (s : State) :
    (takeLaneRead g l stripe c e s).pending = s.pending ∧ (takeLaneRead g l stripe c e s).now = s.now ∧
    (takeLaneRead g l stripe c e s).plan = s.plan ∧ (takeLaneRead g l stripe c e s).session = s.session ∧
    (takeLaneRead g l stripe c e s).table = s.table ∧ (takeLaneRead g l stripe c e s).governor = s.governor ∧
    (takeLaneRead g l stripe c e s).locks = s.locks ∧ (takeLaneRead g l stripe c e s).pool = s.pool ∧
    (takeLaneRead g l stripe c e s).queue = s.queue ∧ (takeLaneRead g l stripe c e s).stripSent = s.stripSent ∧
    (takeLaneRead g l stripe c e s).losses = s.losses ∧ (takeLaneRead g l stripe c e s).writer = s.writer ∧
    (takeLaneRead g l stripe c e s).mail.told = s.mail.told ∧ (takeLaneRead g l stripe c e s).mail.claims = s.mail.claims ∧
    (takeLaneRead g l stripe c e s).mail.answers = s.mail.answers ∧ (takeLaneRead g l stripe c e s).mail.grants = s.mail.grants ∧
    (takeLaneRead g l stripe c e s).mail.reservations = s.mail.reservations ∧
    (takeLaneRead g l stripe c e s).mail.triggers = s.mail.triggers ∧ (takeLaneRead g l stripe c e s).link.hunting = s.link.hunting ∧
    (takeLaneRead g l stripe c e s).link.gathered = s.link.gathered ∧ (takeLaneRead g l stripe c e s).link.held = s.link.held ∧
    (takeLaneRead g l stripe c e s).link.resetCause = s.link.resetCause ∧ (takeLaneRead g l stripe c e s).link.sent = s.link.sent ∧
    owed (takeLaneRead g l stripe c e s).link = owed s.link := by
  unfold takeLaneRead
  try dsimp only
  (repeat' split) <;> simp

@[simp] theorem recordLostRange_frame (g : ArrayGroup) (stripe : Nat) (s : State) (x : LostRange) :
    (recordLostRange g stripe s x).pending = s.pending ∧ (recordLostRange g stripe s x).now = s.now ∧
    (recordLostRange g stripe s x).plan = s.plan ∧ (recordLostRange g stripe s x).table = s.table ∧
    (recordLostRange g stripe s x).lanes = s.lanes ∧ (recordLostRange g stripe s x).governor = s.governor ∧
    (recordLostRange g stripe s x).locks = s.locks ∧ (recordLostRange g stripe s x).queue = s.queue ∧
    (recordLostRange g stripe s x).stripSent = s.stripSent ∧ (recordLostRange g stripe s x).mail.claims = s.mail.claims ∧
    (recordLostRange g stripe s x).mail.answers = s.mail.answers ∧ (recordLostRange g stripe s x).mail.grants = s.mail.grants ∧
    (recordLostRange g stripe s x).link.hunting = s.link.hunting ∧
    (recordLostRange g stripe s x).link.gathered = s.link.gathered ∧ (recordLostRange g stripe s x).link.held = s.link.held ∧
    (recordLostRange g stripe s x).link.resetCause = s.link.resetCause ∧ (recordLostRange g stripe s x).link.sent = s.link.sent ∧
    owed (recordLostRange g stripe s x).link = owed s.link := by
  simp [recordLostRange]

@[simp] theorem finishStripe_frame (g : ArrayGroup) (l : Lane) (x : Nat) (stripe : Nat) (s : State) :
    (finishStripe g l x stripe s).pending = s.pending ∧ (finishStripe g l x stripe s).now = s.now ∧
    (finishStripe g l x stripe s).plan = s.plan ∧ (finishStripe g l x stripe s).queue = s.queue ∧
    (finishStripe g l x stripe s).stripSent = s.stripSent ∧ (finishStripe g l x stripe s).mail.answers = s.mail.answers ∧
    (finishStripe g l x stripe s).link.hunting = s.link.hunting ∧ (finishStripe g l x stripe s).link.gathered = s.link.gathered ∧
    (finishStripe g l x stripe s).link.held = s.link.held ∧ (finishStripe g l x stripe s).link.resetCause = s.link.resetCause ∧
    (finishStripe g l x stripe s).link.sent = s.link.sent ∧ owed (finishStripe g l x stripe s).link = owed s.link := by
  unfold finishStripe
  try dsimp only
  simp [foldl_keeps State.pending, foldl_keeps State.now, foldl_keeps State.plan, foldl_keeps State.queue, foldl_keeps State.stripSent,
      foldl_keeps (fun t => t.mail.answers), foldl_keeps (fun t => t.link.hunting), foldl_keeps (fun t => t.link.gathered),
      foldl_keeps (fun t => t.link.held), foldl_keeps (fun t => t.link.resetCause), foldl_keeps (fun t => t.link.sent),
      foldl_keeps (fun t => owed t.link)]

@[simp] theorem takeLaneWrite_frame (g : ArrayGroup) (l : Lane) (x : Nat) (stripe : Nat) (e : EndStatus) (s : State) :
    (takeLaneWrite g l x stripe e s).pending = s.pending ∧ (takeLaneWrite g l x stripe e s).now = s.now ∧
    (takeLaneWrite g l x stripe e s).plan = s.plan ∧ (takeLaneWrite g l x stripe e s).queue = s.queue ∧
    (takeLaneWrite g l x stripe e s).stripSent = s.stripSent ∧ (takeLaneWrite g l x stripe e s).mail.answers = s.mail.answers ∧
    (takeLaneWrite g l x stripe e s).link.hunting = s.link.hunting ∧ (takeLaneWrite g l x stripe e s).link.gathered = s.link.gathered ∧
    (takeLaneWrite g l x stripe e s).link.held = s.link.held ∧ (takeLaneWrite g l x stripe e s).link.resetCause = s.link.resetCause ∧
    (takeLaneWrite g l x stripe e s).link.sent = s.link.sent ∧ owed (takeLaneWrite g l x stripe e s).link = owed s.link := by
  unfold takeLaneWrite
  try dsimp only
  (repeat' split) <;> simp

@[simp] theorem enterDraining_frame (tag : Tag) (s : State) :
    (enterDraining tag s).pending = s.pending ∧ (enterDraining tag s).now = s.now ∧ (enterDraining tag s).plan = s.plan ∧
    (enterDraining tag s).queue = s.queue ∧ (enterDraining tag s).stripSent = s.stripSent ∧ (enterDraining tag s).losses = s.losses ∧
    (enterDraining tag s).monitors = s.monitors ∧ (enterDraining tag s).mail.answers = s.mail.answers ∧
    (enterDraining tag s).mail.signals = s.mail.signals ∧
    (enterDraining tag s).link.hunting = s.link.hunting ∧ (enterDraining tag s).link.gathered = s.link.gathered ∧
    (enterDraining tag s).link.held = s.link.held ∧ (enterDraining tag s).link.resetCause = s.link.resetCause ∧
    (enterDraining tag s).link.sent = s.link.sent := by
  simp [enterDraining]

@[simp] theorem enterHalted_frame (s : State) :
    (enterHalted s).pending = s.pending ∧ (enterHalted s).now = s.now ∧ (enterHalted s).plan = s.plan ∧
    (enterHalted s).queue = s.queue ∧ (enterHalted s).stripSent = s.stripSent ∧ (enterHalted s).losses = s.losses ∧
    (enterHalted s).monitors = s.monitors ∧ (enterHalted s).mail.answers = s.mail.answers ∧
    (enterHalted s).mail.signals = s.mail.signals ∧
    (enterHalted s).link.hunting = s.link.hunting ∧ (enterHalted s).link.gathered = s.link.gathered ∧
    (enterHalted s).link.held = s.link.held ∧ (enterHalted s).link.resetCause = s.link.resetCause ∧
    (enterHalted s).link.sent = s.link.sent := by
  unfold enterHalted
  try dsimp only
  (repeat' split) <;> simp

@[simp] theorem endLostWrite_frame (s : State) :
    (endLostWrite s).pending = s.pending ∧ (endLostWrite s).now = s.now ∧ (endLostWrite s).plan = s.plan ∧
    (endLostWrite s).session = s.session ∧ (endLostWrite s).table = s.table ∧ (endLostWrite s).lanes = s.lanes ∧
    (endLostWrite s).governor = s.governor ∧ (endLostWrite s).locks = s.locks ∧ (endLostWrite s).pool = s.pool ∧
    (endLostWrite s).queue = s.queue ∧ (endLostWrite s).chans = s.chans ∧ (endLostWrite s).stripSent = s.stripSent ∧
    (endLostWrite s).losses = s.losses ∧ (endLostWrite s).monitors = s.monitors ∧ (endLostWrite s).link = s.link ∧
    (endLostWrite s).mail.told = s.mail.told ∧ (endLostWrite s).mail.claims = s.mail.claims ∧
    (endLostWrite s).mail.answers = s.mail.answers ∧ (endLostWrite s).mail.grants = s.mail.grants ∧
    (endLostWrite s).mail.reservations = s.mail.reservations ∧ (endLostWrite s).mail.triggers = s.mail.triggers ∧
    (endLostWrite s).mail.signals = s.mail.signals := by
  unfold endLostWrite
  split
  · next h =>
    have h := takeEnding_frame h
    split <;> simp [h]
  · simp

@[simp] theorem enterTargetFailed_frame (s : State) :
    (enterTargetFailed s).pending = s.pending ∧ (enterTargetFailed s).now = s.now ∧ (enterTargetFailed s).plan = s.plan ∧
    (enterTargetFailed s).queue = s.queue ∧ (enterTargetFailed s).stripSent = s.stripSent ∧ (enterTargetFailed s).losses = s.losses ∧
    (enterTargetFailed s).monitors = s.monitors ∧ (enterTargetFailed s).mail.answers = s.mail.answers ∧
    (enterTargetFailed s).mail.signals = s.mail.signals ∧
    (enterTargetFailed s).link.hunting = s.link.hunting ∧ (enterTargetFailed s).link.gathered = s.link.gathered ∧
    (enterTargetFailed s).link.held = s.link.held ∧ (enterTargetFailed s).link.resetCause = s.link.resetCause ∧
    (enterTargetFailed s).link.sent = s.link.sent := by
  simp [enterTargetFailed]

@[simp] theorem takeTold_frame (t : Told) (s : State) :
    (takeTold t s).pending = s.pending ∧ (takeTold t s).now = s.now ∧ (takeTold t s).plan = s.plan ∧ (takeTold t s).queue = s.queue ∧
    (takeTold t s).stripSent = s.stripSent ∧ (takeTold t s).losses = s.losses ∧ (takeTold t s).monitors = s.monitors ∧
    (takeTold t s).mail.answers = s.mail.answers ∧
    (takeTold t s).mail.signals = s.mail.signals ∧ (takeTold t s).link.hunting = s.link.hunting ∧
    (takeTold t s).link.gathered = s.link.gathered ∧ (takeTold t s).link.held = s.link.held ∧
    (takeTold t s).link.resetCause = s.link.resetCause ∧ (takeTold t s).link.sent = s.link.sent := by
  unfold takeTold
  try dsimp only
  (repeat' split) <;> simp

@[simp] theorem judgeDrain_frame (s : State) :
    (judgeDrain s).pending = s.pending ∧ (judgeDrain s).now = s.now ∧ (judgeDrain s).plan = s.plan ∧ (judgeDrain s).lanes = s.lanes ∧
    (judgeDrain s).governor = s.governor ∧ (judgeDrain s).locks = s.locks ∧ (judgeDrain s).queue = s.queue ∧
    (judgeDrain s).stripSent = s.stripSent ∧ (judgeDrain s).monitors = s.monitors ∧ (judgeDrain s).mail.grants = s.mail.grants ∧
    (judgeDrain s).mail.signals = s.mail.signals ∧ (judgeDrain s).link.hunting = s.link.hunting ∧
    (judgeDrain s).link.gathered = s.link.gathered ∧ (judgeDrain s).link.held = s.link.held ∧
    (judgeDrain s).link.resetCause = s.link.resetCause ∧ (judgeDrain s).link.sent = s.link.sent := by
  unfold judgeDrain
  try dsimp only
  (repeat' split) <;> simp

@[simp] theorem endPausing_frame (st : SessionState) (s : State) :
    (endPausing st s).pending = s.pending ∧ (endPausing st s).now = s.now ∧ (endPausing st s).plan = s.plan ∧
    (endPausing st s).table = s.table ∧ (endPausing st s).lanes = s.lanes ∧ (endPausing st s).governor = s.governor ∧
    (endPausing st s).locks = s.locks ∧ (endPausing st s).pool = s.pool ∧ (endPausing st s).queue = s.queue ∧
    (endPausing st s).chans = s.chans ∧ (endPausing st s).stripSent = s.stripSent ∧ (endPausing st s).losses = s.losses ∧
    (endPausing st s).writer = s.writer ∧ (endPausing st s).monitors = s.monitors ∧ (endPausing st s).mail = s.mail ∧
    (endPausing st s).link.hunting = s.link.hunting ∧ (endPausing st s).link.gathered = s.link.gathered ∧
    (endPausing st s).link.held = s.link.held ∧ (endPausing st s).link.resetCause = s.link.resetCause ∧
    (endPausing st s).link.sent = s.link.sent := by
  unfold endPausing
  try dsimp only
  (repeat' split) <;> simp

@[simp] theorem reportWritten_frame (w : CkptWrite) (s : State) :
    (reportWritten w s).pending = s.pending ∧ (reportWritten w s).now = s.now ∧ (reportWritten w s).plan = s.plan ∧
    (reportWritten w s).governor = s.governor ∧ (reportWritten w s).locks = s.locks ∧ (reportWritten w s).queue = s.queue ∧
    (reportWritten w s).stripSent = s.stripSent ∧ (reportWritten w s).monitors = s.monitors ∧
    (reportWritten w s).mail.grants = s.mail.grants ∧ (reportWritten w s).mail.signals = s.mail.signals ∧
    (reportWritten w s).link.hunting = s.link.hunting ∧ (reportWritten w s).link.gathered = s.link.gathered ∧
    (reportWritten w s).link.held = s.link.held ∧ (reportWritten w s).link.resetCause = s.link.resetCause ∧
    (reportWritten w s).link.sent = s.link.sent := by
  unfold reportWritten
  try dsimp only
  (repeat' split) <;> simp

@[simp] theorem followWrite_frame (s : State) :
    (followWrite s).pending = s.pending ∧ (followWrite s).now = s.now ∧ (followWrite s).plan = s.plan ∧
    (followWrite s).session = s.session ∧ (followWrite s).table = s.table ∧ (followWrite s).lanes = s.lanes ∧
    (followWrite s).governor = s.governor ∧ (followWrite s).locks = s.locks ∧ (followWrite s).queue = s.queue ∧
    (followWrite s).stripSent = s.stripSent ∧ (followWrite s).losses = s.losses ∧ (followWrite s).monitors = s.monitors ∧
    (followWrite s).mail.claims = s.mail.claims ∧ (followWrite s).mail.answers = s.mail.answers ∧
    (followWrite s).mail.grants = s.mail.grants ∧ (followWrite s).mail.triggers = s.mail.triggers ∧
    (followWrite s).mail.signals = s.mail.signals ∧ (followWrite s).link.hunting = s.link.hunting ∧
    (followWrite s).link.gathered = s.link.gathered ∧ (followWrite s).link.held = s.link.held ∧
    (followWrite s).link.resetCause = s.link.resetCause ∧ (followWrite s).link.sent = s.link.sent ∧
    owed (followWrite s).link = owed s.link := by
  unfold followWrite
  try dsimp only
  (repeat' split) <;> simp

@[simp] theorem writeDone_frame (w : CkptWrite) (s : State) :
    (writeDone w s).pending = s.pending ∧ (writeDone w s).now = s.now ∧ (writeDone w s).plan = s.plan ∧
    (writeDone w s).governor = s.governor ∧ (writeDone w s).locks = s.locks ∧ (writeDone w s).queue = s.queue ∧
    (writeDone w s).stripSent = s.stripSent ∧ (writeDone w s).monitors = s.monitors ∧ (writeDone w s).mail.grants = s.mail.grants ∧
    (writeDone w s).mail.signals = s.mail.signals ∧ (writeDone w s).link.hunting = s.link.hunting ∧
    (writeDone w s).link.gathered = s.link.gathered ∧ (writeDone w s).link.held = s.link.held ∧
    (writeDone w s).link.resetCause = s.link.resetCause ∧ (writeDone w s).link.sent = s.link.sent := by
  simp [writeDone]

@[simp] theorem reportUnlessEnded_frame (g : ArrayGroup) (e : EndStatus) (s : State) :
    (reportUnlessEnded g e s).pending = s.pending ∧ (reportUnlessEnded g e s).now = s.now ∧ (reportUnlessEnded g e s).plan = s.plan ∧
    (reportUnlessEnded g e s).session = s.session ∧ (reportUnlessEnded g e s).table = s.table ∧
    (reportUnlessEnded g e s).lanes = s.lanes ∧ (reportUnlessEnded g e s).governor = s.governor ∧
    (reportUnlessEnded g e s).locks = s.locks ∧ (reportUnlessEnded g e s).queue = s.queue ∧
    (reportUnlessEnded g e s).stripSent = s.stripSent ∧ (reportUnlessEnded g e s).losses = s.losses ∧
    (reportUnlessEnded g e s).writer = s.writer ∧ (reportUnlessEnded g e s).monitors = s.monitors ∧
    (reportUnlessEnded g e s).mail.claims = s.mail.claims ∧ (reportUnlessEnded g e s).mail.answers = s.mail.answers ∧
    (reportUnlessEnded g e s).mail.grants = s.mail.grants ∧ (reportUnlessEnded g e s).mail.triggers = s.mail.triggers ∧
    (reportUnlessEnded g e s).mail.signals = s.mail.signals ∧ (reportUnlessEnded g e s).link.hunting = s.link.hunting ∧
    (reportUnlessEnded g e s).link.gathered = s.link.gathered ∧ (reportUnlessEnded g e s).link.held = s.link.held ∧
    (reportUnlessEnded g e s).link.resetCause = s.link.resetCause ∧ (reportUnlessEnded g e s).link.sent = s.link.sent ∧
    owed (reportUnlessEnded g e s).link = owed s.link := by
  unfold reportUnlessEnded
  try dsimp only
  (repeat' split) <;> simp

@[simp] theorem writeFailed_frame (g : ArrayGroup) (w : CkptWrite) (e : EndStatus) (s : State) :
    (writeFailed g w e s).pending = s.pending ∧ (writeFailed g w e s).now = s.now ∧ (writeFailed g w e s).plan = s.plan ∧
    (writeFailed g w e s).lanes = s.lanes ∧ (writeFailed g w e s).governor = s.governor ∧ (writeFailed g w e s).locks = s.locks ∧
    (writeFailed g w e s).queue = s.queue ∧ (writeFailed g w e s).stripSent = s.stripSent ∧
    (writeFailed g w e s).monitors = s.monitors ∧ (writeFailed g w e s).mail.grants = s.mail.grants ∧
    (writeFailed g w e s).mail.signals = s.mail.signals ∧ (writeFailed g w e s).link.hunting = s.link.hunting ∧
    (writeFailed g w e s).link.gathered = s.link.gathered ∧ (writeFailed g w e s).link.held = s.link.held ∧
    (writeFailed g w e s).link.resetCause = s.link.resetCause ∧ (writeFailed g w e s).link.sent = s.link.sent := by
  unfold writeFailed
  try dsimp only
  (repeat' split) <;> simp

@[simp] theorem takeWriteEnding_frame (g : ArrayGroup) (w : CkptWrite) (e : EndStatus) (s : State) :
    (takeWriteEnding g w e s).pending = s.pending ∧ (takeWriteEnding g w e s).now = s.now ∧ (takeWriteEnding g w e s).plan = s.plan ∧
    (takeWriteEnding g w e s).governor = s.governor ∧ (takeWriteEnding g w e s).locks = s.locks ∧
    (takeWriteEnding g w e s).queue = s.queue ∧ (takeWriteEnding g w e s).stripSent = s.stripSent ∧
    (takeWriteEnding g w e s).monitors = s.monitors ∧ (takeWriteEnding g w e s).mail.grants = s.mail.grants ∧
    (takeWriteEnding g w e s).mail.signals = s.mail.signals ∧ (takeWriteEnding g w e s).link.hunting = s.link.hunting ∧
    (takeWriteEnding g w e s).link.gathered = s.link.gathered ∧ (takeWriteEnding g w e s).link.held = s.link.held ∧
    (takeWriteEnding g w e s).link.resetCause = s.link.resetCause ∧ (takeWriteEnding g w e s).link.sent = s.link.sent := by
  unfold takeWriteEnding
  try dsimp only
  (repeat' split) <;> simp

@[simp] theorem readSlot_frame (g : ArrayGroup) (slot : CkptSlot) (s : State) :
    (readSlot g slot s).pending = s.pending ∧ (readSlot g slot s).now = s.now ∧ (readSlot g slot s).plan = s.plan ∧
    (readSlot g slot s).session = s.session ∧ (readSlot g slot s).table = s.table ∧ (readSlot g slot s).lanes = s.lanes ∧
    (readSlot g slot s).governor = s.governor ∧ (readSlot g slot s).locks = s.locks ∧ (readSlot g slot s).pool = s.pool ∧
    (readSlot g slot s).queue = s.queue ∧ (readSlot g slot s).stripSent = s.stripSent ∧ (readSlot g slot s).losses = s.losses ∧
    (readSlot g slot s).writer = s.writer ∧ (readSlot g slot s).monitors = s.monitors ∧ (readSlot g slot s).link = s.link ∧
    (readSlot g slot s).mail.told = s.mail.told ∧ (readSlot g slot s).mail.claims = s.mail.claims ∧
    (readSlot g slot s).mail.answers = s.mail.answers ∧ (readSlot g slot s).mail.grants = s.mail.grants ∧
    (readSlot g slot s).mail.reservations = s.mail.reservations ∧ (readSlot g slot s).mail.triggers = s.mail.triggers ∧
    (readSlot g slot s).mail.signals = s.mail.signals := by
  simp [readSlot]

@[simp] theorem restoreEnds_frame (a : Answer) (r : Result) (s : State) :
    (restoreEnds a r s).pending = s.pending ∧ (restoreEnds a r s).now = s.now ∧ (restoreEnds a r s).plan = s.plan ∧
    (restoreEnds a r s).lanes = s.lanes ∧ (restoreEnds a r s).governor = s.governor ∧ (restoreEnds a r s).locks = s.locks ∧
    (restoreEnds a r s).pool = s.pool ∧ (restoreEnds a r s).queue = s.queue ∧ (restoreEnds a r s).stripSent = s.stripSent ∧
    (restoreEnds a r s).monitors = s.monitors ∧ (restoreEnds a r s).mail.endings = s.mail.endings ∧
    (restoreEnds a r s).mail.grants = s.mail.grants ∧ (restoreEnds a r s).mail.reservations = s.mail.reservations ∧
    (restoreEnds a r s).mail.signals = s.mail.signals ∧ (restoreEnds a r s).link.hunting = s.link.hunting ∧
    (restoreEnds a r s).link.gathered = s.link.gathered ∧ (restoreEnds a r s).link.held = s.link.held ∧
    (restoreEnds a r s).link.resetCause = s.link.resetCause ∧ (restoreEnds a r s).link.sent = s.link.sent := by
  simp [restoreEnds]

@[simp] theorem checkRestoredLink_frame (c : Chan) (s : State) :
    (checkRestoredLink c s).pending = s.pending ∧ (checkRestoredLink c s).now = s.now ∧ (checkRestoredLink c s).plan = s.plan ∧
    (checkRestoredLink c s).session = s.session ∧ (checkRestoredLink c s).table = s.table ∧ (checkRestoredLink c s).lanes = s.lanes ∧
    (checkRestoredLink c s).governor = s.governor ∧ (checkRestoredLink c s).locks = s.locks ∧ (checkRestoredLink c s).queue = s.queue ∧
    (checkRestoredLink c s).stripSent = s.stripSent ∧ (checkRestoredLink c s).losses = s.losses ∧
    (checkRestoredLink c s).writer = s.writer ∧ (checkRestoredLink c s).monitors = s.monitors ∧
    (checkRestoredLink c s).mail.claims = s.mail.claims ∧ (checkRestoredLink c s).mail.answers = s.mail.answers ∧
    (checkRestoredLink c s).mail.grants = s.mail.grants ∧ (checkRestoredLink c s).mail.triggers = s.mail.triggers ∧
    (checkRestoredLink c s).mail.signals = s.mail.signals ∧ (checkRestoredLink c s).link.hunting = s.link.hunting ∧
    (checkRestoredLink c s).link.gathered = s.link.gathered ∧ (checkRestoredLink c s).link.held = s.link.held ∧
    (checkRestoredLink c s).link.resetCause = s.link.resetCause ∧ (checkRestoredLink c s).link.sent = s.link.sent ∧
    owed (checkRestoredLink c s).link = owed s.link := by
  unfold checkRestoredLink
  try dsimp only
  (repeat' split) <;> simp

@[simp] theorem checkRestoredLinks_frame (s : State) :
    (checkRestoredLinks s).pending = s.pending ∧ (checkRestoredLinks s).now = s.now ∧ (checkRestoredLinks s).plan = s.plan ∧
    (checkRestoredLinks s).session = s.session ∧ (checkRestoredLinks s).table = s.table ∧ (checkRestoredLinks s).lanes = s.lanes ∧
    (checkRestoredLinks s).governor = s.governor ∧ (checkRestoredLinks s).locks = s.locks ∧ (checkRestoredLinks s).queue = s.queue ∧
    (checkRestoredLinks s).stripSent = s.stripSent ∧ (checkRestoredLinks s).losses = s.losses ∧
    (checkRestoredLinks s).writer = s.writer ∧ (checkRestoredLinks s).monitors = s.monitors ∧
    (checkRestoredLinks s).mail.claims = s.mail.claims ∧ (checkRestoredLinks s).mail.answers = s.mail.answers ∧
    (checkRestoredLinks s).mail.grants = s.mail.grants ∧ (checkRestoredLinks s).mail.triggers = s.mail.triggers ∧
    (checkRestoredLinks s).mail.signals = s.mail.signals ∧ (checkRestoredLinks s).link.hunting = s.link.hunting ∧
    (checkRestoredLinks s).link.gathered = s.link.gathered ∧ (checkRestoredLinks s).link.held = s.link.held ∧
    (checkRestoredLinks s).link.resetCause = s.link.resetCause ∧ (checkRestoredLinks s).link.sent = s.link.sent ∧
    owed (checkRestoredLinks s).link = owed s.link := by
  unfold checkRestoredLinks
  try dsimp only
  simp [foldl_keeps State.pending, foldl_keeps State.now, foldl_keeps State.plan, foldl_keeps State.session, foldl_keeps State.table,
      foldl_keeps State.lanes, foldl_keeps State.governor, foldl_keeps State.locks, foldl_keeps State.queue,
      foldl_keeps State.stripSent, foldl_keeps State.losses, foldl_keeps State.writer, foldl_keeps State.monitors,
      foldl_keeps (fun t => t.mail.claims), foldl_keeps (fun t => t.mail.answers), foldl_keeps (fun t => t.mail.grants),
      foldl_keeps (fun t => t.mail.triggers), foldl_keeps (fun t => t.mail.signals), foldl_keeps (fun t => t.link.hunting),
      foldl_keeps (fun t => t.link.gathered), foldl_keeps (fun t => t.link.held), foldl_keeps (fun t => t.link.resetCause),
      foldl_keeps (fun t => t.link.sent), foldl_keeps (fun t => owed t.link)]

@[simp] theorem loadRecord_frame (g : ArrayGroup) (slot : CkptSlot) (spareRole : Role) (bs : List Block) (s : State) :
    (loadRecord g slot spareRole bs s).pending = s.pending ∧ (loadRecord g slot spareRole bs s).now = s.now ∧
    (loadRecord g slot spareRole bs s).plan = s.plan ∧ (loadRecord g slot spareRole bs s).session = s.session ∧
    (loadRecord g slot spareRole bs s).lanes = s.lanes ∧ (loadRecord g slot spareRole bs s).governor = s.governor ∧
    (loadRecord g slot spareRole bs s).locks = s.locks ∧ (loadRecord g slot spareRole bs s).pool = s.pool ∧
    (loadRecord g slot spareRole bs s).queue = s.queue ∧ (loadRecord g slot spareRole bs s).stripSent = s.stripSent ∧
    (loadRecord g slot spareRole bs s).monitors = s.monitors ∧ (loadRecord g slot spareRole bs s).link = s.link ∧
    (loadRecord g slot spareRole bs s).mail = s.mail := by
  simp [loadRecord]

@[simp] theorem restoreTo_frame
    (g : ArrayGroup) (slot : CkptSlot) (m : Mark) (st : SessionState) (spareRole : Role) (bs : List Block) (s : State) :
    (restoreTo g slot m st spareRole bs s).pending = s.pending ∧ (restoreTo g slot m st spareRole bs s).now = s.now ∧
    (restoreTo g slot m st spareRole bs s).plan = s.plan ∧ (restoreTo g slot m st spareRole bs s).lanes = s.lanes ∧
    (restoreTo g slot m st spareRole bs s).governor = s.governor ∧ (restoreTo g slot m st spareRole bs s).locks = s.locks ∧
    (restoreTo g slot m st spareRole bs s).queue = s.queue ∧ (restoreTo g slot m st spareRole bs s).stripSent = s.stripSent ∧
    (restoreTo g slot m st spareRole bs s).monitors = s.monitors ∧ (restoreTo g slot m st spareRole bs s).mail.claims = s.mail.claims ∧
    (restoreTo g slot m st spareRole bs s).mail.answers = s.mail.answers ∧
    (restoreTo g slot m st spareRole bs s).mail.grants = s.mail.grants ∧
    (restoreTo g slot m st spareRole bs s).mail.triggers = s.mail.triggers ∧
    (restoreTo g slot m st spareRole bs s).mail.signals = s.mail.signals ∧
    (restoreTo g slot m st spareRole bs s).link.hunting = s.link.hunting ∧
    (restoreTo g slot m st spareRole bs s).link.gathered = s.link.gathered ∧
    (restoreTo g slot m st spareRole bs s).link.held = s.link.held ∧
    (restoreTo g slot m st spareRole bs s).link.resetCause = s.link.resetCause ∧
    (restoreTo g slot m st spareRole bs s).link.sent = s.link.sent := by
  simp [restoreTo]

@[simp] theorem restoreByMark_frame (g : ArrayGroup) (slot : CkptSlot) (bs : List Block) (m : Option Mark) (s : State) :
    (restoreByMark g slot bs m s).pending = s.pending ∧ (restoreByMark g slot bs m s).now = s.now ∧
    (restoreByMark g slot bs m s).plan = s.plan ∧ (restoreByMark g slot bs m s).lanes = s.lanes ∧
    (restoreByMark g slot bs m s).governor = s.governor ∧ (restoreByMark g slot bs m s).locks = s.locks ∧
    (restoreByMark g slot bs m s).queue = s.queue ∧ (restoreByMark g slot bs m s).stripSent = s.stripSent ∧
    (restoreByMark g slot bs m s).monitors = s.monitors ∧ (restoreByMark g slot bs m s).mail.grants = s.mail.grants ∧
    (restoreByMark g slot bs m s).mail.signals = s.mail.signals ∧ (restoreByMark g slot bs m s).link.hunting = s.link.hunting ∧
    (restoreByMark g slot bs m s).link.gathered = s.link.gathered ∧ (restoreByMark g slot bs m s).link.held = s.link.held ∧
    (restoreByMark g slot bs m s).link.resetCause = s.link.resetCause ∧ (restoreByMark g slot bs m s).link.sent = s.link.sent := by
  unfold restoreByMark
  (repeat' split) <;> simp

@[simp] theorem restoreRefused_frame (a b : SlotVerdict) (s : State) :
    (restoreRefused a b s).pending = s.pending ∧ (restoreRefused a b s).now = s.now ∧ (restoreRefused a b s).plan = s.plan ∧
    (restoreRefused a b s).lanes = s.lanes ∧ (restoreRefused a b s).governor = s.governor ∧ (restoreRefused a b s).locks = s.locks ∧
    (restoreRefused a b s).queue = s.queue ∧ (restoreRefused a b s).stripSent = s.stripSent ∧
    (restoreRefused a b s).monitors = s.monitors ∧ (restoreRefused a b s).mail.grants = s.mail.grants ∧
    (restoreRefused a b s).mail.signals = s.mail.signals ∧ (restoreRefused a b s).link.hunting = s.link.hunting ∧
    (restoreRefused a b s).link.gathered = s.link.gathered ∧ (restoreRefused a b s).link.held = s.link.held ∧
    (restoreRefused a b s).link.resetCause = s.link.resetCause ∧ (restoreRefused a b s).link.sent = s.link.sent := by
  unfold restoreRefused
  (repeat' split) <;> simp

@[simp] theorem restoreChosen_frame (g : ArrayGroup) (a b : List Block) (c : Option (CkptSlot × List Block)) (s : State) :
    (restoreChosen g a b c s).pending = s.pending ∧ (restoreChosen g a b c s).now = s.now ∧ (restoreChosen g a b c s).plan = s.plan ∧
    (restoreChosen g a b c s).lanes = s.lanes ∧ (restoreChosen g a b c s).governor = s.governor ∧
    (restoreChosen g a b c s).locks = s.locks ∧ (restoreChosen g a b c s).queue = s.queue ∧
    (restoreChosen g a b c s).stripSent = s.stripSent ∧ (restoreChosen g a b c s).monitors = s.monitors ∧
    (restoreChosen g a b c s).mail.grants = s.mail.grants ∧ (restoreChosen g a b c s).mail.signals = s.mail.signals ∧
    (restoreChosen g a b c s).link.hunting = s.link.hunting ∧ (restoreChosen g a b c s).link.gathered = s.link.gathered ∧
    (restoreChosen g a b c s).link.held = s.link.held ∧ (restoreChosen g a b c s).link.resetCause = s.link.resetCause ∧
    (restoreChosen g a b c s).link.sent = s.link.sent := by
  unfold restoreChosen
  (repeat' split) <;> simp

@[simp] theorem reportRecords_frame (g : ArrayGroup) (a : List Block) (b : List Block) (s : State) :
    (reportRecords g a b s).pending = s.pending ∧ (reportRecords g a b s).now = s.now ∧ (reportRecords g a b s).plan = s.plan ∧
    (reportRecords g a b s).lanes = s.lanes ∧ (reportRecords g a b s).governor = s.governor ∧ (reportRecords g a b s).locks = s.locks ∧
    (reportRecords g a b s).queue = s.queue ∧ (reportRecords g a b s).stripSent = s.stripSent ∧
    (reportRecords g a b s).monitors = s.monitors ∧ (reportRecords g a b s).mail.grants = s.mail.grants ∧
    (reportRecords g a b s).mail.signals = s.mail.signals ∧ (reportRecords g a b s).link.hunting = s.link.hunting ∧
    (reportRecords g a b s).link.gathered = s.link.gathered ∧ (reportRecords g a b s).link.held = s.link.held ∧
    (reportRecords g a b s).link.resetCause = s.link.resetCause ∧ (reportRecords g a b s).link.sent = s.link.sent := by
  unfold reportRecords
  try dsimp only
  (repeat' split) <;> simp

@[simp] theorem slotRead_frame (g : ArrayGroup) (r : CkptReads) (bs : List Block) (s : State) :
    (slotRead g r bs s).pending = s.pending ∧ (slotRead g r bs s).now = s.now ∧ (slotRead g r bs s).plan = s.plan ∧
    (slotRead g r bs s).lanes = s.lanes ∧ (slotRead g r bs s).governor = s.governor ∧ (slotRead g r bs s).locks = s.locks ∧
    (slotRead g r bs s).queue = s.queue ∧ (slotRead g r bs s).stripSent = s.stripSent ∧ (slotRead g r bs s).monitors = s.monitors ∧
    (slotRead g r bs s).mail.grants = s.mail.grants ∧ (slotRead g r bs s).mail.signals = s.mail.signals ∧
    (slotRead g r bs s).link.hunting = s.link.hunting ∧ (slotRead g r bs s).link.gathered = s.link.gathered ∧
    (slotRead g r bs s).link.held = s.link.held ∧ (slotRead g r bs s).link.resetCause = s.link.resetCause ∧
    (slotRead g r bs s).link.sent = s.link.sent := by
  unfold slotRead
  try dsimp only
  (repeat' split) <;> simp

@[simp] theorem slotFailed_frame (g : ArrayGroup) (e : EndStatus) (s : State) :
    (slotFailed g e s).pending = s.pending ∧ (slotFailed g e s).now = s.now ∧ (slotFailed g e s).plan = s.plan ∧
    (slotFailed g e s).lanes = s.lanes ∧ (slotFailed g e s).governor = s.governor ∧ (slotFailed g e s).locks = s.locks ∧
    (slotFailed g e s).queue = s.queue ∧ (slotFailed g e s).stripSent = s.stripSent ∧ (slotFailed g e s).monitors = s.monitors ∧
    (slotFailed g e s).mail.grants = s.mail.grants ∧ (slotFailed g e s).mail.signals = s.mail.signals ∧
    (slotFailed g e s).link.hunting = s.link.hunting ∧ (slotFailed g e s).link.gathered = s.link.gathered ∧
    (slotFailed g e s).link.held = s.link.held ∧ (slotFailed g e s).link.resetCause = s.link.resetCause ∧
    (slotFailed g e s).link.sent = s.link.sent := by
  simp [slotFailed]

@[simp] theorem retrySlot_frame (g : ArrayGroup) (r : CkptReads) (s : State) :
    (retrySlot g r s).pending = s.pending ∧ (retrySlot g r s).now = s.now ∧ (retrySlot g r s).plan = s.plan ∧
    (retrySlot g r s).session = s.session ∧ (retrySlot g r s).table = s.table ∧ (retrySlot g r s).lanes = s.lanes ∧
    (retrySlot g r s).governor = s.governor ∧ (retrySlot g r s).locks = s.locks ∧ (retrySlot g r s).pool = s.pool ∧
    (retrySlot g r s).queue = s.queue ∧ (retrySlot g r s).stripSent = s.stripSent ∧ (retrySlot g r s).losses = s.losses ∧
    (retrySlot g r s).mail.told = s.mail.told ∧ (retrySlot g r s).mail.claims = s.mail.claims ∧
    (retrySlot g r s).mail.answers = s.mail.answers ∧ (retrySlot g r s).mail.grants = s.mail.grants ∧
    (retrySlot g r s).mail.reservations = s.mail.reservations ∧ (retrySlot g r s).mail.triggers = s.mail.triggers ∧
    (retrySlot g r s).link.hunting = s.link.hunting ∧ (retrySlot g r s).link.gathered = s.link.gathered ∧
    (retrySlot g r s).link.held = s.link.held ∧ (retrySlot g r s).link.resetCause = s.link.resetCause ∧
    (retrySlot g r s).link.sent = s.link.sent ∧ owed (retrySlot g r s).link = owed s.link := by
  simp [retrySlot]

@[simp] theorem takeReadEnding_frame (g : ArrayGroup) (r : CkptReads) (e : EndStatus) (s : State) :
    (takeReadEnding g r e s).pending = s.pending ∧ (takeReadEnding g r e s).now = s.now ∧ (takeReadEnding g r e s).plan = s.plan ∧
    (takeReadEnding g r e s).lanes = s.lanes ∧ (takeReadEnding g r e s).governor = s.governor ∧
    (takeReadEnding g r e s).locks = s.locks ∧ (takeReadEnding g r e s).queue = s.queue ∧
    (takeReadEnding g r e s).stripSent = s.stripSent ∧ (takeReadEnding g r e s).mail.grants = s.mail.grants ∧
    (takeReadEnding g r e s).link.hunting = s.link.hunting ∧ (takeReadEnding g r e s).link.gathered = s.link.gathered ∧
    (takeReadEnding g r e s).link.held = s.link.held ∧ (takeReadEnding g r e s).link.resetCause = s.link.resetCause ∧
    (takeReadEnding g r e s).link.sent = s.link.sent := by
  unfold takeReadEnding
  try dsimp only
  (repeat' split) <;> simp

end Sys2Proof.Machine
end

