-- ==== Sys2Proof/Laws/FramesForeground.lean ====
section
/-! SUPPORT. What the operations of the foreground engine leave unchanged: one lemma for each operation, over every field of the state
that it never touches. -/

namespace Sys2Proof.Machine
open Sys2Proof

@[simp] theorem setEntry_frame (e : FgEntry) (s : State) :
    (setEntry e s).pending = s.pending ∧ (setEntry e s).now = s.now ∧ (setEntry e s).plan = s.plan ∧
    (setEntry e s).session = s.session ∧ (setEntry e s).table = s.table ∧ (setEntry e s).lanes = s.lanes ∧
    (setEntry e s).governor = s.governor ∧ (setEntry e s).locks = s.locks ∧ (setEntry e s).pool = s.pool ∧
    (setEntry e s).chans = s.chans ∧ (setEntry e s).stripSent = s.stripSent ∧ (setEntry e s).losses = s.losses ∧
    (setEntry e s).writer = s.writer ∧ (setEntry e s).monitors = s.monitors ∧ (setEntry e s).link = s.link ∧
    (setEntry e s).mail = s.mail := by
  simp [setEntry]

@[simp] theorem beginPhase_frame (g : ArrayGroup) (e : FgEntry) (stage : FgStage) (p : PhasePlan) (write : Bool) (s : State) :
    (beginPhase g e stage p write s).pending = s.pending ∧ (beginPhase g e stage p write s).now = s.now ∧
    (beginPhase g e stage p write s).plan = s.plan ∧ (beginPhase g e stage p write s).session = s.session ∧
    (beginPhase g e stage p write s).table = s.table ∧ (beginPhase g e stage p write s).lanes = s.lanes ∧
    (beginPhase g e stage p write s).governor = s.governor ∧ (beginPhase g e stage p write s).locks = s.locks ∧
    (beginPhase g e stage p write s).pool = s.pool ∧ (beginPhase g e stage p write s).stripSent = s.stripSent ∧
    (beginPhase g e stage p write s).losses = s.losses ∧ (beginPhase g e stage p write s).writer = s.writer ∧
    (beginPhase g e stage p write s).monitors = s.monitors ∧ (beginPhase g e stage p write s).link = s.link ∧
    (beginPhase g e stage p write s).mail.told = s.mail.told ∧ (beginPhase g e stage p write s).mail.claims = s.mail.claims ∧
    (beginPhase g e stage p write s).mail.answers = s.mail.answers ∧ (beginPhase g e stage p write s).mail.grants = s.mail.grants ∧
    (beginPhase g e stage p write s).mail.reservations = s.mail.reservations ∧
    (beginPhase g e stage p write s).mail.triggers = s.mail.triggers ∧ (beginPhase g e stage p write s).mail.signals = s.mail.signals := by
  unfold beginPhase
  try dsimp only
  simp [foldl_keeps State.pending, foldl_keeps State.now, foldl_keeps State.plan, foldl_keeps State.session, foldl_keeps State.table,
      foldl_keeps State.lanes, foldl_keeps State.governor, foldl_keeps State.locks, foldl_keeps State.pool,
      foldl_keeps State.stripSent, foldl_keeps State.losses, foldl_keeps State.writer, foldl_keeps State.monitors,
      foldl_keeps State.link, foldl_keeps (fun t => t.mail.told), foldl_keeps (fun t => t.mail.claims),
      foldl_keeps (fun t => t.mail.answers), foldl_keeps (fun t => t.mail.grants), foldl_keeps (fun t => t.mail.reservations),
      foldl_keeps (fun t => t.mail.triggers), foldl_keeps (fun t => t.mail.signals)]

@[simp] theorem handFgReply_frame (e : FgEntry) (a : Answer) (r : Result) (s : State) :
    (handFgReply e a r s).pending = s.pending ∧ (handFgReply e a r s).now = s.now ∧ (handFgReply e a r s).plan = s.plan ∧
    (handFgReply e a r s).session = s.session ∧ (handFgReply e a r s).table = s.table ∧ (handFgReply e a r s).lanes = s.lanes ∧
    (handFgReply e a r s).governor = s.governor ∧ (handFgReply e a r s).locks = s.locks ∧ (handFgReply e a r s).pool = s.pool ∧
    (handFgReply e a r s).chans = s.chans ∧ (handFgReply e a r s).stripSent = s.stripSent ∧ (handFgReply e a r s).losses = s.losses ∧
    (handFgReply e a r s).writer = s.writer ∧ (handFgReply e a r s).mail.endings = s.mail.endings ∧
    (handFgReply e a r s).mail.told = s.mail.told ∧ (handFgReply e a r s).mail.claims = s.mail.claims ∧
    (handFgReply e a r s).mail.answers = s.mail.answers ∧ (handFgReply e a r s).mail.grants = s.mail.grants ∧
    (handFgReply e a r s).mail.reservations = s.mail.reservations ∧ (handFgReply e a r s).mail.triggers = s.mail.triggers ∧
    (handFgReply e a r s).link.hunting = s.link.hunting ∧ (handFgReply e a r s).link.gathered = s.link.gathered ∧
    (handFgReply e a r s).link.held = s.link.held ∧ (handFgReply e a r s).link.resetCause = s.link.resetCause ∧
    (handFgReply e a r s).link.sent = s.link.sent := by
  unfold handFgReply
  try dsimp only
  (repeat' split) <;> simp

@[simp] theorem endFg_frame (e : FgEntry) (a : Answer) (r : Result) (s : State) :
    (endFg e a r s).pending = s.pending ∧ (endFg e a r s).now = s.now ∧ (endFg e a r s).plan = s.plan ∧
    (endFg e a r s).session = s.session ∧ (endFg e a r s).table = s.table ∧ (endFg e a r s).lanes = s.lanes ∧
    (endFg e a r s).governor = s.governor ∧ (endFg e a r s).chans = s.chans ∧ (endFg e a r s).stripSent = s.stripSent ∧
    (endFg e a r s).writer = s.writer ∧ (endFg e a r s).mail.endings = s.mail.endings ∧ (endFg e a r s).mail.told = s.mail.told ∧
    (endFg e a r s).mail.claims = s.mail.claims ∧ (endFg e a r s).mail.answers = s.mail.answers ∧
    (endFg e a r s).mail.triggers = s.mail.triggers ∧ (endFg e a r s).link.hunting = s.link.hunting ∧
    (endFg e a r s).link.gathered = s.link.gathered ∧ (endFg e a r s).link.held = s.link.held ∧
    (endFg e a r s).link.resetCause = s.link.resetCause ∧ (endFg e a r s).link.sent = s.link.sent := by
  unfold endFg
  try dsimp only
  (repeat' split) <;> simp

@[simp] theorem endRead_frame (g : ArrayGroup) (e : FgEntry) (s : State) :
    (endRead g e s).pending = s.pending ∧ (endRead g e s).now = s.now ∧ (endRead g e s).plan = s.plan ∧
    (endRead g e s).session = s.session ∧ (endRead g e s).table = s.table ∧ (endRead g e s).lanes = s.lanes ∧
    (endRead g e s).governor = s.governor ∧ (endRead g e s).chans = s.chans ∧ (endRead g e s).stripSent = s.stripSent ∧
    (endRead g e s).writer = s.writer ∧ (endRead g e s).mail.endings = s.mail.endings ∧ (endRead g e s).mail.told = s.mail.told ∧
    (endRead g e s).mail.claims = s.mail.claims ∧ (endRead g e s).mail.answers = s.mail.answers ∧
    (endRead g e s).mail.triggers = s.mail.triggers ∧ (endRead g e s).link.hunting = s.link.hunting ∧
    (endRead g e s).link.gathered = s.link.gathered ∧ (endRead g e s).link.held = s.link.held ∧
    (endRead g e s).link.resetCause = s.link.resetCause ∧ (endRead g e s).link.sent = s.link.sent := by
  unfold endRead
  try dsimp only
  (repeat' split) <;> simp

@[simp] theorem planRead_frame (g : ArrayGroup) (e : FgEntry) (s : State) :
    (planRead g e s).pending = s.pending ∧ (planRead g e s).now = s.now ∧ (planRead g e s).plan = s.plan ∧
    (planRead g e s).session = s.session ∧ (planRead g e s).table = s.table ∧ (planRead g e s).lanes = s.lanes ∧
    (planRead g e s).governor = s.governor ∧ (planRead g e s).stripSent = s.stripSent ∧ (planRead g e s).writer = s.writer ∧
    (planRead g e s).mail.told = s.mail.told ∧ (planRead g e s).mail.claims = s.mail.claims ∧
    (planRead g e s).mail.answers = s.mail.answers ∧ (planRead g e s).mail.triggers = s.mail.triggers ∧
    (planRead g e s).link.hunting = s.link.hunting ∧ (planRead g e s).link.gathered = s.link.gathered ∧
    (planRead g e s).link.held = s.link.held ∧ (planRead g e s).link.resetCause = s.link.resetCause ∧
    (planRead g e s).link.sent = s.link.sent := by
  unfold planRead
  try dsimp only
  (repeat' split) <;> simp

@[simp] theorem endReconstruct_frame (g : ArrayGroup) (e : FgEntry) (s : State) :
    (endReconstruct g e s).pending = s.pending ∧ (endReconstruct g e s).now = s.now ∧ (endReconstruct g e s).plan = s.plan ∧
    (endReconstruct g e s).session = s.session ∧ (endReconstruct g e s).table = s.table ∧ (endReconstruct g e s).lanes = s.lanes ∧
    (endReconstruct g e s).governor = s.governor ∧ (endReconstruct g e s).chans = s.chans ∧
    (endReconstruct g e s).stripSent = s.stripSent ∧ (endReconstruct g e s).writer = s.writer ∧
    (endReconstruct g e s).mail.endings = s.mail.endings ∧ (endReconstruct g e s).mail.told = s.mail.told ∧
    (endReconstruct g e s).mail.claims = s.mail.claims ∧ (endReconstruct g e s).mail.answers = s.mail.answers ∧
    (endReconstruct g e s).mail.triggers = s.mail.triggers ∧ (endReconstruct g e s).link.hunting = s.link.hunting ∧
    (endReconstruct g e s).link.gathered = s.link.gathered ∧ (endReconstruct g e s).link.held = s.link.held ∧
    (endReconstruct g e s).link.resetCause = s.link.resetCause ∧ (endReconstruct g e s).link.sent = s.link.sent := by
  simp [endReconstruct]

@[simp] theorem planReconstruct_frame (g : ArrayGroup) (e : FgEntry) (wanted : List (Nat × Nat)) (s : State) :
    (planReconstruct g e wanted s).pending = s.pending ∧ (planReconstruct g e wanted s).now = s.now ∧
    (planReconstruct g e wanted s).plan = s.plan ∧ (planReconstruct g e wanted s).session = s.session ∧
    (planReconstruct g e wanted s).table = s.table ∧ (planReconstruct g e wanted s).lanes = s.lanes ∧
    (planReconstruct g e wanted s).governor = s.governor ∧ (planReconstruct g e wanted s).stripSent = s.stripSent ∧
    (planReconstruct g e wanted s).writer = s.writer ∧ (planReconstruct g e wanted s).mail.told = s.mail.told ∧
    (planReconstruct g e wanted s).mail.claims = s.mail.claims ∧ (planReconstruct g e wanted s).mail.answers = s.mail.answers ∧
    (planReconstruct g e wanted s).mail.triggers = s.mail.triggers ∧ (planReconstruct g e wanted s).link.hunting = s.link.hunting ∧
    (planReconstruct g e wanted s).link.gathered = s.link.gathered ∧ (planReconstruct g e wanted s).link.held = s.link.held ∧
    (planReconstruct g e wanted s).link.resetCause = s.link.resetCause ∧ (planReconstruct g e wanted s).link.sent = s.link.sent := by
  unfold planReconstruct
  try dsimp only
  (repeat' split) <;> simp

@[simp] theorem endReadPhase_frame (g : ArrayGroup) (e : FgEntry) (s : State) :
    (endReadPhase g e s).pending = s.pending ∧ (endReadPhase g e s).now = s.now ∧ (endReadPhase g e s).plan = s.plan ∧
    (endReadPhase g e s).session = s.session ∧ (endReadPhase g e s).table = s.table ∧ (endReadPhase g e s).lanes = s.lanes ∧
    (endReadPhase g e s).governor = s.governor ∧ (endReadPhase g e s).stripSent = s.stripSent ∧
    (endReadPhase g e s).writer = s.writer ∧ (endReadPhase g e s).mail.told = s.mail.told ∧
    (endReadPhase g e s).mail.claims = s.mail.claims ∧ (endReadPhase g e s).mail.answers = s.mail.answers ∧
    (endReadPhase g e s).mail.triggers = s.mail.triggers ∧ (endReadPhase g e s).link.hunting = s.link.hunting ∧
    (endReadPhase g e s).link.gathered = s.link.gathered ∧ (endReadPhase g e s).link.held = s.link.held ∧
    (endReadPhase g e s).link.resetCause = s.link.resetCause ∧ (endReadPhase g e s).link.sent = s.link.sent := by
  unfold endReadPhase
  try dsimp only
  (repeat' split) <;> simp

@[simp] theorem planFullWrite_frame (g : ArrayGroup) (e : FgEntry) (p : PhasePlan) (s : State) :
    (planFullWrite g e p s).pending = s.pending ∧ (planFullWrite g e p s).now = s.now ∧ (planFullWrite g e p s).plan = s.plan ∧
    (planFullWrite g e p s).session = s.session ∧ (planFullWrite g e p s).table = s.table ∧ (planFullWrite g e p s).lanes = s.lanes ∧
    (planFullWrite g e p s).governor = s.governor ∧ (planFullWrite g e p s).locks = s.locks ∧ (planFullWrite g e p s).pool = s.pool ∧
    (planFullWrite g e p s).stripSent = s.stripSent ∧ (planFullWrite g e p s).losses = s.losses ∧
    (planFullWrite g e p s).writer = s.writer ∧ (planFullWrite g e p s).monitors = s.monitors ∧ (planFullWrite g e p s).link = s.link ∧
    (planFullWrite g e p s).mail.told = s.mail.told ∧ (planFullWrite g e p s).mail.claims = s.mail.claims ∧
    (planFullWrite g e p s).mail.answers = s.mail.answers ∧ (planFullWrite g e p s).mail.grants = s.mail.grants ∧
    (planFullWrite g e p s).mail.reservations = s.mail.reservations ∧ (planFullWrite g e p s).mail.triggers = s.mail.triggers ∧
    (planFullWrite g e p s).mail.signals = s.mail.signals := by
  simp [planFullWrite]

@[simp] theorem planWrite_frame (g : ArrayGroup) (e : FgEntry) (s : State) :
    (planWrite g e s).pending = s.pending ∧ (planWrite g e s).now = s.now ∧ (planWrite g e s).plan = s.plan ∧
    (planWrite g e s).session = s.session ∧ (planWrite g e s).table = s.table ∧ (planWrite g e s).lanes = s.lanes ∧
    (planWrite g e s).governor = s.governor ∧ (planWrite g e s).stripSent = s.stripSent ∧ (planWrite g e s).writer = s.writer ∧
    (planWrite g e s).mail.told = s.mail.told ∧ (planWrite g e s).mail.claims = s.mail.claims ∧
    (planWrite g e s).mail.answers = s.mail.answers ∧ (planWrite g e s).mail.triggers = s.mail.triggers ∧
    (planWrite g e s).link.hunting = s.link.hunting ∧ (planWrite g e s).link.gathered = s.link.gathered ∧
    (planWrite g e s).link.held = s.link.held ∧ (planWrite g e s).link.resetCause = s.link.resetCause ∧
    (planWrite g e s).link.sent = s.link.sent := by
  unfold planWrite
  try dsimp only
  (repeat' split) <;> simp

@[simp] theorem endWriteRead_frame (g : ArrayGroup) (e : FgEntry) (s : State) :
    (endWriteRead g e s).pending = s.pending ∧ (endWriteRead g e s).now = s.now ∧ (endWriteRead g e s).plan = s.plan ∧
    (endWriteRead g e s).session = s.session ∧ (endWriteRead g e s).table = s.table ∧ (endWriteRead g e s).lanes = s.lanes ∧
    (endWriteRead g e s).governor = s.governor ∧ (endWriteRead g e s).stripSent = s.stripSent ∧
    (endWriteRead g e s).writer = s.writer ∧ (endWriteRead g e s).mail.told = s.mail.told ∧
    (endWriteRead g e s).mail.claims = s.mail.claims ∧ (endWriteRead g e s).mail.answers = s.mail.answers ∧
    (endWriteRead g e s).mail.triggers = s.mail.triggers ∧ (endWriteRead g e s).link.hunting = s.link.hunting ∧
    (endWriteRead g e s).link.gathered = s.link.gathered ∧ (endWriteRead g e s).link.held = s.link.held ∧
    (endWriteRead g e s).link.resetCause = s.link.resetCause ∧ (endWriteRead g e s).link.sent = s.link.sent := by
  unfold endWriteRead
  try dsimp only
  (repeat' split) <;> simp

@[simp] theorem planFirst_frame (g : ArrayGroup) (e : FgEntry) (s : State) :
    (planFirst g e s).pending = s.pending ∧ (planFirst g e s).now = s.now ∧ (planFirst g e s).plan = s.plan ∧
    (planFirst g e s).session = s.session ∧ (planFirst g e s).table = s.table ∧ (planFirst g e s).lanes = s.lanes ∧
    (planFirst g e s).governor = s.governor ∧ (planFirst g e s).stripSent = s.stripSent ∧ (planFirst g e s).writer = s.writer ∧
    (planFirst g e s).mail.told = s.mail.told ∧ (planFirst g e s).mail.claims = s.mail.claims ∧
    (planFirst g e s).mail.answers = s.mail.answers ∧ (planFirst g e s).mail.triggers = s.mail.triggers ∧
    (planFirst g e s).link.hunting = s.link.hunting ∧ (planFirst g e s).link.gathered = s.link.gathered ∧
    (planFirst g e s).link.held = s.link.held ∧ (planFirst g e s).link.resetCause = s.link.resetCause ∧
    (planFirst g e s).link.sent = s.link.sent := by
  unfold planFirst
  try dsimp only
  (repeat' split) <;> simp

@[simp] theorem judgeReads_frame (g : ArrayGroup) (e : FgEntry) (s : State) :
    (judgeReads g e s).pending = s.pending ∧ (judgeReads g e s).now = s.now ∧ (judgeReads g e s).plan = s.plan ∧
    (judgeReads g e s).session = s.session ∧ (judgeReads g e s).table = s.table ∧ (judgeReads g e s).lanes = s.lanes ∧
    (judgeReads g e s).governor = s.governor ∧ (judgeReads g e s).stripSent = s.stripSent ∧ (judgeReads g e s).writer = s.writer ∧
    (judgeReads g e s).mail.told = s.mail.told ∧ (judgeReads g e s).mail.claims = s.mail.claims ∧
    (judgeReads g e s).mail.answers = s.mail.answers ∧ (judgeReads g e s).mail.triggers = s.mail.triggers ∧
    (judgeReads g e s).link.hunting = s.link.hunting ∧ (judgeReads g e s).link.gathered = s.link.gathered ∧
    (judgeReads g e s).link.held = s.link.held ∧ (judgeReads g e s).link.resetCause = s.link.resetCause ∧
    (judgeReads g e s).link.sent = s.link.sent := by
  unfold judgeReads
  try dsimp only
  (repeat' split) <;> simp

@[simp] theorem endReads_frame (g : ArrayGroup) (e : FgEntry) (s : State) :
    (endReads g e s).pending = s.pending ∧ (endReads g e s).now = s.now ∧ (endReads g e s).plan = s.plan ∧
    (endReads g e s).session = s.session ∧ (endReads g e s).table = s.table ∧ (endReads g e s).lanes = s.lanes ∧
    (endReads g e s).governor = s.governor ∧ (endReads g e s).stripSent = s.stripSent ∧ (endReads g e s).writer = s.writer ∧
    (endReads g e s).mail.told = s.mail.told ∧ (endReads g e s).mail.claims = s.mail.claims ∧
    (endReads g e s).mail.answers = s.mail.answers ∧ (endReads g e s).mail.triggers = s.mail.triggers ∧
    (endReads g e s).link.hunting = s.link.hunting ∧ (endReads g e s).link.gathered = s.link.gathered ∧
    (endReads g e s).link.held = s.link.held ∧ (endReads g e s).link.resetCause = s.link.resetCause ∧
    (endReads g e s).link.sent = s.link.sent := by
  simp [endReads]

@[simp] theorem closeRead_frame (g : ArrayGroup) (e : FgEntry) (q : PhaseCmd) (o : CmdOutcome) (bs : List (Option Block)) (s : State) :
    (closeRead g e q o bs s).pending = s.pending ∧ (closeRead g e q o bs s).now = s.now ∧ (closeRead g e q o bs s).plan = s.plan ∧
    (closeRead g e q o bs s).session = s.session ∧ (closeRead g e q o bs s).table = s.table ∧
    (closeRead g e q o bs s).lanes = s.lanes ∧ (closeRead g e q o bs s).governor = s.governor ∧
    (closeRead g e q o bs s).stripSent = s.stripSent ∧ (closeRead g e q o bs s).writer = s.writer ∧
    (closeRead g e q o bs s).mail.told = s.mail.told ∧ (closeRead g e q o bs s).mail.claims = s.mail.claims ∧
    (closeRead g e q o bs s).mail.answers = s.mail.answers ∧ (closeRead g e q o bs s).mail.triggers = s.mail.triggers ∧
    (closeRead g e q o bs s).link.hunting = s.link.hunting ∧ (closeRead g e q o bs s).link.gathered = s.link.gathered ∧
    (closeRead g e q o bs s).link.held = s.link.held ∧ (closeRead g e q o bs s).link.resetCause = s.link.resetCause ∧
    (closeRead g e q o bs s).link.sent = s.link.sent := by
  unfold closeRead
  try dsimp only
  (repeat' split) <;> simp

@[simp] theorem retryCmd_frame (g : ArrayGroup) (e : FgEntry) (q : PhaseCmd) (s : State) :
    (retryCmd g e q s).pending = s.pending ∧ (retryCmd g e q s).now = s.now ∧ (retryCmd g e q s).plan = s.plan ∧
    (retryCmd g e q s).session = s.session ∧ (retryCmd g e q s).table = s.table ∧ (retryCmd g e q s).lanes = s.lanes ∧
    (retryCmd g e q s).governor = s.governor ∧ (retryCmd g e q s).locks = s.locks ∧ (retryCmd g e q s).pool = s.pool ∧
    (retryCmd g e q s).stripSent = s.stripSent ∧ (retryCmd g e q s).losses = s.losses ∧ (retryCmd g e q s).writer = s.writer ∧
    (retryCmd g e q s).mail.told = s.mail.told ∧ (retryCmd g e q s).mail.claims = s.mail.claims ∧
    (retryCmd g e q s).mail.answers = s.mail.answers ∧ (retryCmd g e q s).mail.grants = s.mail.grants ∧
    (retryCmd g e q s).mail.reservations = s.mail.reservations ∧ (retryCmd g e q s).mail.triggers = s.mail.triggers ∧
    (retryCmd g e q s).link.hunting = s.link.hunting ∧ (retryCmd g e q s).link.gathered = s.link.gathered ∧
    (retryCmd g e q s).link.held = s.link.held ∧ (retryCmd g e q s).link.resetCause = s.link.resetCause ∧
    (retryCmd g e q s).link.sent = s.link.sent ∧ owed (retryCmd g e q s).link = owed s.link := by
  simp [retryCmd]

@[simp] theorem takeFgRead_frame (g : ArrayGroup) (e : FgEntry) (q : PhaseCmd) (x : EndStatus) (s : State) :
    (takeFgRead g e q x s).pending = s.pending ∧ (takeFgRead g e q x s).now = s.now ∧ (takeFgRead g e q x s).plan = s.plan ∧
    (takeFgRead g e q x s).session = s.session ∧ (takeFgRead g e q x s).table = s.table ∧ (takeFgRead g e q x s).lanes = s.lanes ∧
    (takeFgRead g e q x s).governor = s.governor ∧ (takeFgRead g e q x s).stripSent = s.stripSent ∧
    (takeFgRead g e q x s).writer = s.writer ∧ (takeFgRead g e q x s).mail.told = s.mail.told ∧
    (takeFgRead g e q x s).mail.claims = s.mail.claims ∧ (takeFgRead g e q x s).mail.answers = s.mail.answers ∧
    (takeFgRead g e q x s).mail.triggers = s.mail.triggers ∧ (takeFgRead g e q x s).link.hunting = s.link.hunting ∧
    (takeFgRead g e q x s).link.gathered = s.link.gathered ∧ (takeFgRead g e q x s).link.held = s.link.held ∧
    (takeFgRead g e q x s).link.resetCause = s.link.resetCause ∧ (takeFgRead g e q x s).link.sent = s.link.sent := by
  unfold takeFgRead
  try dsimp only
  (repeat' split) <;> simp

@[simp] theorem reportWrite_frame (c : Chan) (good : Bool) (s : State) :
    (reportWrite c good s).pending = s.pending ∧ (reportWrite c good s).now = s.now ∧ (reportWrite c good s).plan = s.plan ∧
    (reportWrite c good s).session = s.session ∧ (reportWrite c good s).table = s.table ∧ (reportWrite c good s).lanes = s.lanes ∧
    (reportWrite c good s).governor = s.governor ∧ (reportWrite c good s).locks = s.locks ∧ (reportWrite c good s).queue = s.queue ∧
    (reportWrite c good s).stripSent = s.stripSent ∧ (reportWrite c good s).losses = s.losses ∧
    (reportWrite c good s).writer = s.writer ∧ (reportWrite c good s).monitors = s.monitors ∧
    (reportWrite c good s).mail.claims = s.mail.claims ∧ (reportWrite c good s).mail.answers = s.mail.answers ∧
    (reportWrite c good s).mail.grants = s.mail.grants ∧ (reportWrite c good s).mail.triggers = s.mail.triggers ∧
    (reportWrite c good s).mail.signals = s.mail.signals ∧ (reportWrite c good s).link.hunting = s.link.hunting ∧
    (reportWrite c good s).link.gathered = s.link.gathered ∧ (reportWrite c good s).link.held = s.link.held ∧
    (reportWrite c good s).link.resetCause = s.link.resetCause ∧ (reportWrite c good s).link.sent = s.link.sent ∧
    owed (reportWrite c good s).link = owed s.link := by
  unfold reportWrite
  try dsimp only
  (repeat' split) <;> simp

@[simp] theorem takeFgWrite_frame (g : ArrayGroup) (e : FgEntry) (q : PhaseCmd) (x : EndStatus) (s : State) :
    (takeFgWrite g e q x s).pending = s.pending ∧ (takeFgWrite g e q x s).now = s.now ∧ (takeFgWrite g e q x s).plan = s.plan ∧
    (takeFgWrite g e q x s).session = s.session ∧ (takeFgWrite g e q x s).lanes = s.lanes ∧
    (takeFgWrite g e q x s).governor = s.governor ∧ (takeFgWrite g e q x s).stripSent = s.stripSent ∧
    (takeFgWrite g e q x s).writer = s.writer ∧ (takeFgWrite g e q x s).mail.claims = s.mail.claims ∧
    (takeFgWrite g e q x s).mail.answers = s.mail.answers ∧ (takeFgWrite g e q x s).mail.triggers = s.mail.triggers ∧
    (takeFgWrite g e q x s).link.hunting = s.link.hunting ∧ (takeFgWrite g e q x s).link.gathered = s.link.gathered ∧
    (takeFgWrite g e q x s).link.held = s.link.held ∧ (takeFgWrite g e q x s).link.resetCause = s.link.resetCause ∧
    (takeFgWrite g e q x s).link.sent = s.link.sent := by
  unfold takeFgWrite
  try dsimp only
  (repeat' split) <;> simp

@[simp] theorem fgBuffers_frame (g : ArrayGroup) (e : FgEntry) (s : State) :
    (fgBuffers g e s).pending = s.pending ∧ (fgBuffers g e s).now = s.now ∧ (fgBuffers g e s).plan = s.plan ∧
    (fgBuffers g e s).session = s.session ∧ (fgBuffers g e s).table = s.table ∧ (fgBuffers g e s).lanes = s.lanes ∧
    (fgBuffers g e s).governor = s.governor ∧ (fgBuffers g e s).locks = s.locks ∧ (fgBuffers g e s).chans = s.chans ∧
    (fgBuffers g e s).stripSent = s.stripSent ∧ (fgBuffers g e s).losses = s.losses ∧ (fgBuffers g e s).writer = s.writer ∧
    (fgBuffers g e s).mail.endings = s.mail.endings ∧ (fgBuffers g e s).mail.told = s.mail.told ∧
    (fgBuffers g e s).mail.claims = s.mail.claims ∧ (fgBuffers g e s).mail.answers = s.mail.answers ∧
    (fgBuffers g e s).mail.grants = s.mail.grants ∧ (fgBuffers g e s).mail.triggers = s.mail.triggers ∧
    (fgBuffers g e s).link.hunting = s.link.hunting ∧ (fgBuffers g e s).link.gathered = s.link.gathered ∧
    (fgBuffers g e s).link.held = s.link.held ∧ (fgBuffers g e s).link.resetCause = s.link.resetCause ∧
    (fgBuffers g e s).link.sent = s.link.sent ∧ owed (fgBuffers g e s).link = owed s.link := by
  simp [fgBuffers]

@[simp] theorem acceptFg_frame (g : ArrayGroup) (e : FgEntry) (s : State) :
    (acceptFg g e s).pending = s.pending ∧ (acceptFg g e s).now = s.now ∧ (acceptFg g e s).plan = s.plan ∧
    (acceptFg g e s).session = s.session ∧ (acceptFg g e s).table = s.table ∧ (acceptFg g e s).lanes = s.lanes ∧
    (acceptFg g e s).governor = s.governor ∧ (acceptFg g e s).chans = s.chans ∧ (acceptFg g e s).stripSent = s.stripSent ∧
    (acceptFg g e s).losses = s.losses ∧ (acceptFg g e s).writer = s.writer ∧ (acceptFg g e s).mail.endings = s.mail.endings ∧
    (acceptFg g e s).mail.told = s.mail.told ∧ (acceptFg g e s).mail.claims = s.mail.claims ∧
    (acceptFg g e s).mail.answers = s.mail.answers ∧ (acceptFg g e s).mail.grants = s.mail.grants ∧
    (acceptFg g e s).mail.triggers = s.mail.triggers ∧ (acceptFg g e s).link.hunting = s.link.hunting ∧
    (acceptFg g e s).link.gathered = s.link.gathered ∧ (acceptFg g e s).link.held = s.link.held ∧
    (acceptFg g e s).link.resetCause = s.link.resetCause ∧ (acceptFg g e s).link.sent = s.link.sent ∧
    owed (acceptFg g e s).link = owed s.link := by
  unfold acceptFg
  try dsimp only
  (repeat' split) <;> simp

@[simp] theorem takeForeground_frame
    (tag : Tag) (type : Byte) (write : Bool) (lba : Nat) (count : Nat) (blocks : List Block) (s : State) :
    (takeForeground tag type write lba count blocks s).pending = s.pending ∧
    (takeForeground tag type write lba count blocks s).now = s.now ∧ (takeForeground tag type write lba count blocks s).plan = s.plan ∧
    (takeForeground tag type write lba count blocks s).session = s.session ∧
    (takeForeground tag type write lba count blocks s).table = s.table ∧
    (takeForeground tag type write lba count blocks s).lanes = s.lanes ∧
    (takeForeground tag type write lba count blocks s).governor = s.governor ∧
    (takeForeground tag type write lba count blocks s).chans = s.chans ∧
    (takeForeground tag type write lba count blocks s).stripSent = s.stripSent ∧
    (takeForeground tag type write lba count blocks s).losses = s.losses ∧
    (takeForeground tag type write lba count blocks s).writer = s.writer ∧
    (takeForeground tag type write lba count blocks s).mail.endings = s.mail.endings ∧
    (takeForeground tag type write lba count blocks s).mail.told = s.mail.told ∧
    (takeForeground tag type write lba count blocks s).mail.claims = s.mail.claims ∧
    (takeForeground tag type write lba count blocks s).mail.answers = s.mail.answers ∧
    (takeForeground tag type write lba count blocks s).mail.grants = s.mail.grants ∧
    (takeForeground tag type write lba count blocks s).mail.triggers = s.mail.triggers ∧
    (takeForeground tag type write lba count blocks s).link.hunting = s.link.hunting ∧
    (takeForeground tag type write lba count blocks s).link.gathered = s.link.gathered ∧
    (takeForeground tag type write lba count blocks s).link.held = s.link.held ∧
    (takeForeground tag type write lba count blocks s).link.resetCause = s.link.resetCause ∧
    (takeForeground tag type write lba count blocks s).link.sent = s.link.sent := by
  unfold takeForeground
  try dsimp only
  (repeat' split) <;> simp

end Sys2Proof.Machine
end

