-- ==== Sys2Proof/Laws/FramesRequests.lean ====
section
/-! SUPPORT. What the operations of dispatch and of the commands leave unchanged: one lemma for each operation, over every field of the state
that it never touches. -/

namespace Sys2Proof.Machine
open Sys2Proof

@[simp] theorem setPlan_frame (p : PlanStore) (s : State) :
    (setPlan p s).pending = s.pending ∧ (setPlan p s).now = s.now ∧ (setPlan p s).session = s.session ∧ (setPlan p s).table = s.table ∧
    (setPlan p s).lanes = s.lanes ∧ (setPlan p s).governor = s.governor ∧ (setPlan p s).locks = s.locks ∧ (setPlan p s).pool = s.pool ∧
    (setPlan p s).queue = s.queue ∧ (setPlan p s).chans = s.chans ∧ (setPlan p s).stripSent = s.stripSent ∧
    (setPlan p s).losses = s.losses ∧ (setPlan p s).writer = s.writer ∧ (setPlan p s).monitors = s.monitors ∧
    (setPlan p s).link = s.link ∧ (setPlan p s).mail = s.mail := by
  simp [setPlan]

@[simp] theorem takeStageArray_frame (tag : Tag) (g : ArrayGroup) (s : State) :
    (takeStageArray tag g s).pending = s.pending ∧ (takeStageArray tag g s).now = s.now ∧
    (takeStageArray tag g s).session = s.session ∧ (takeStageArray tag g s).table = s.table ∧
    (takeStageArray tag g s).lanes = s.lanes ∧ (takeStageArray tag g s).governor = s.governor ∧
    (takeStageArray tag g s).locks = s.locks ∧ (takeStageArray tag g s).pool = s.pool ∧ (takeStageArray tag g s).queue = s.queue ∧
    (takeStageArray tag g s).chans = s.chans ∧ (takeStageArray tag g s).stripSent = s.stripSent ∧
    (takeStageArray tag g s).losses = s.losses ∧ (takeStageArray tag g s).writer = s.writer ∧
    (takeStageArray tag g s).monitors = s.monitors ∧ (takeStageArray tag g s).mail = s.mail ∧
    (takeStageArray tag g s).link.hunting = s.link.hunting ∧ (takeStageArray tag g s).link.gathered = s.link.gathered ∧
    (takeStageArray tag g s).link.held = s.link.held ∧ (takeStageArray tag g s).link.resetCause = s.link.resetCause ∧
    (takeStageArray tag g s).link.sent = s.link.sent := by
  unfold takeStageArray checked
  split <;> simp

@[simp] theorem takeStagePolicy_frame (tag : Tag) (f : PolicyFields) (s : State) :
    (takeStagePolicy tag f s).pending = s.pending ∧ (takeStagePolicy tag f s).now = s.now ∧
    (takeStagePolicy tag f s).session = s.session ∧ (takeStagePolicy tag f s).table = s.table ∧
    (takeStagePolicy tag f s).lanes = s.lanes ∧ (takeStagePolicy tag f s).governor = s.governor ∧
    (takeStagePolicy tag f s).locks = s.locks ∧ (takeStagePolicy tag f s).pool = s.pool ∧ (takeStagePolicy tag f s).queue = s.queue ∧
    (takeStagePolicy tag f s).chans = s.chans ∧ (takeStagePolicy tag f s).stripSent = s.stripSent ∧
    (takeStagePolicy tag f s).losses = s.losses ∧ (takeStagePolicy tag f s).writer = s.writer ∧
    (takeStagePolicy tag f s).monitors = s.monitors ∧ (takeStagePolicy tag f s).mail = s.mail ∧
    (takeStagePolicy tag f s).link.hunting = s.link.hunting ∧ (takeStagePolicy tag f s).link.gathered = s.link.gathered ∧
    (takeStagePolicy tag f s).link.held = s.link.held ∧ (takeStagePolicy tag f s).link.resetCause = s.link.resetCause ∧
    (takeStagePolicy tag f s).link.sent = s.link.sent := by
  unfold takeStagePolicy checked
  split <;> simp

@[simp] theorem takeStageWindow_frame (tag : Tag) (f : WindowFields) (s : State) :
    (takeStageWindow tag f s).pending = s.pending ∧ (takeStageWindow tag f s).now = s.now ∧
    (takeStageWindow tag f s).session = s.session ∧ (takeStageWindow tag f s).table = s.table ∧
    (takeStageWindow tag f s).lanes = s.lanes ∧ (takeStageWindow tag f s).governor = s.governor ∧
    (takeStageWindow tag f s).locks = s.locks ∧ (takeStageWindow tag f s).pool = s.pool ∧ (takeStageWindow tag f s).queue = s.queue ∧
    (takeStageWindow tag f s).chans = s.chans ∧ (takeStageWindow tag f s).stripSent = s.stripSent ∧
    (takeStageWindow tag f s).losses = s.losses ∧ (takeStageWindow tag f s).writer = s.writer ∧
    (takeStageWindow tag f s).monitors = s.monitors ∧ (takeStageWindow tag f s).mail = s.mail ∧
    (takeStageWindow tag f s).link.hunting = s.link.hunting ∧ (takeStageWindow tag f s).link.gathered = s.link.gathered ∧
    (takeStageWindow tag f s).link.held = s.link.held ∧ (takeStageWindow tag f s).link.resetCause = s.link.resetCause ∧
    (takeStageWindow tag f s).link.sent = s.link.sent := by
  unfold takeStageWindow checked
  split <;> simp

@[simp] theorem classesLatched_frame (s : State) :
    (classesLatched s).pending = s.pending ∧ (classesLatched s).now = s.now ∧ (classesLatched s).plan = s.plan ∧
    (classesLatched s).session = s.session ∧ (classesLatched s).lanes = s.lanes ∧ (classesLatched s).governor = s.governor ∧
    (classesLatched s).locks = s.locks ∧ (classesLatched s).pool = s.pool ∧ (classesLatched s).queue = s.queue ∧
    (classesLatched s).chans = s.chans ∧ (classesLatched s).stripSent = s.stripSent ∧ (classesLatched s).losses = s.losses ∧
    (classesLatched s).writer = s.writer ∧ (classesLatched s).monitors = s.monitors ∧ (classesLatched s).mail = s.mail ∧
    (classesLatched s).link.hunting = s.link.hunting ∧ (classesLatched s).link.gathered = s.link.gathered ∧
    (classesLatched s).link.held = s.link.held ∧ (classesLatched s).link.resetCause = s.link.resetCause ∧
    (classesLatched s).link.sent = s.link.sent ∧ owed (classesLatched s).link = owed s.link := by
  unfold classesLatched
  split <;> simp

@[simp] theorem latch_frame (names : Groups) (s : State) :
    (latch names s).pending = s.pending ∧ (latch names s).now = s.now ∧ (latch names s).session = s.session ∧
    (latch names s).locks = s.locks ∧ (latch names s).pool = s.pool ∧ (latch names s).queue = s.queue ∧
    (latch names s).chans = s.chans ∧ (latch names s).stripSent = s.stripSent ∧ (latch names s).losses = s.losses ∧
    (latch names s).writer = s.writer ∧ (latch names s).monitors = s.monitors ∧ (latch names s).mail.endings = s.mail.endings ∧
    (latch names s).mail.told = s.mail.told ∧ (latch names s).mail.answers = s.mail.answers ∧
    (latch names s).mail.grants = s.mail.grants ∧ (latch names s).mail.reservations = s.mail.reservations ∧
    (latch names s).mail.triggers = s.mail.triggers ∧ (latch names s).mail.signals = s.mail.signals ∧
    (latch names s).link.hunting = s.link.hunting ∧ (latch names s).link.gathered = s.link.gathered ∧
    (latch names s).link.held = s.link.held ∧ (latch names s).link.resetCause = s.link.resetCause ∧
    (latch names s).link.sent = s.link.sent ∧ owed (latch names s).link = owed s.link := by
  unfold latch
  try dsimp only
  (repeat' split) <;> simp

@[simp] theorem takeCommit_frame (tag : Tag) (names : Groups) (s : State) :
    (takeCommit tag names s).pending = s.pending ∧ (takeCommit tag names s).now = s.now ∧
    (takeCommit tag names s).session = s.session ∧ (takeCommit tag names s).locks = s.locks ∧ (takeCommit tag names s).pool = s.pool ∧
    (takeCommit tag names s).queue = s.queue ∧ (takeCommit tag names s).chans = s.chans ∧
    (takeCommit tag names s).stripSent = s.stripSent ∧ (takeCommit tag names s).losses = s.losses ∧
    (takeCommit tag names s).writer = s.writer ∧ (takeCommit tag names s).monitors = s.monitors ∧
    (takeCommit tag names s).mail.endings = s.mail.endings ∧ (takeCommit tag names s).mail.told = s.mail.told ∧
    (takeCommit tag names s).mail.answers = s.mail.answers ∧ (takeCommit tag names s).mail.grants = s.mail.grants ∧
    (takeCommit tag names s).mail.reservations = s.mail.reservations ∧ (takeCommit tag names s).mail.triggers = s.mail.triggers ∧
    (takeCommit tag names s).mail.signals = s.mail.signals ∧ (takeCommit tag names s).link.hunting = s.link.hunting ∧
    (takeCommit tag names s).link.gathered = s.link.gathered ∧ (takeCommit tag names s).link.held = s.link.held ∧
    (takeCommit tag names s).link.resetCause = s.link.resetCause ∧ (takeCommit tag names s).link.sent = s.link.sent := by
  unfold takeCommit
  try dsimp only
  (repeat' split) <;> simp

@[simp] theorem takeSetRate_frame (tag : Tag) (level : Nat) (s : State) :
    (takeSetRate tag level s).pending = s.pending ∧ (takeSetRate tag level s).now = s.now ∧ (takeSetRate tag level s).plan = s.plan ∧
    (takeSetRate tag level s).session = s.session ∧ (takeSetRate tag level s).table = s.table ∧
    (takeSetRate tag level s).locks = s.locks ∧ (takeSetRate tag level s).pool = s.pool ∧ (takeSetRate tag level s).queue = s.queue ∧
    (takeSetRate tag level s).chans = s.chans ∧ (takeSetRate tag level s).stripSent = s.stripSent ∧
    (takeSetRate tag level s).losses = s.losses ∧ (takeSetRate tag level s).writer = s.writer ∧
    (takeSetRate tag level s).monitors = s.monitors ∧ (takeSetRate tag level s).mail.endings = s.mail.endings ∧
    (takeSetRate tag level s).mail.told = s.mail.told ∧ (takeSetRate tag level s).mail.answers = s.mail.answers ∧
    (takeSetRate tag level s).mail.grants = s.mail.grants ∧ (takeSetRate tag level s).mail.reservations = s.mail.reservations ∧
    (takeSetRate tag level s).mail.triggers = s.mail.triggers ∧ (takeSetRate tag level s).mail.signals = s.mail.signals ∧
    (takeSetRate tag level s).link.hunting = s.link.hunting ∧ (takeSetRate tag level s).link.gathered = s.link.gathered ∧
    (takeSetRate tag level s).link.held = s.link.held ∧ (takeSetRate tag level s).link.resetCause = s.link.resetCause ∧
    (takeSetRate tag level s).link.sent = s.link.sent := by
  unfold takeSetRate checked
  split <;> simp

@[simp] theorem takeSetMonitor_frame (tag : Tag) (f : MonitorFields) (s : State) :
    (takeSetMonitor tag f s).pending = s.pending ∧ (takeSetMonitor tag f s).now = s.now ∧ (takeSetMonitor tag f s).plan = s.plan ∧
    (takeSetMonitor tag f s).session = s.session ∧ (takeSetMonitor tag f s).table = s.table ∧
    (takeSetMonitor tag f s).lanes = s.lanes ∧ (takeSetMonitor tag f s).governor = s.governor ∧
    (takeSetMonitor tag f s).locks = s.locks ∧ (takeSetMonitor tag f s).pool = s.pool ∧ (takeSetMonitor tag f s).queue = s.queue ∧
    (takeSetMonitor tag f s).chans = s.chans ∧ (takeSetMonitor tag f s).stripSent = s.stripSent ∧
    (takeSetMonitor tag f s).losses = s.losses ∧ (takeSetMonitor tag f s).writer = s.writer ∧ (takeSetMonitor tag f s).mail = s.mail ∧
    (takeSetMonitor tag f s).link.hunting = s.link.hunting ∧ (takeSetMonitor tag f s).link.gathered = s.link.gathered ∧
    (takeSetMonitor tag f s).link.held = s.link.held ∧ (takeSetMonitor tag f s).link.resetCause = s.link.resetCause ∧
    (takeSetMonitor tag f s).link.sent = s.link.sent := by
  unfold takeSetMonitor checked
  split <;> simp

@[simp] theorem takeIdentify_frame (tag : Tag) (s : State) :
    (takeIdentify tag s).pending = s.pending ∧ (takeIdentify tag s).now = s.now ∧ (takeIdentify tag s).plan = s.plan ∧
    (takeIdentify tag s).session = s.session ∧ (takeIdentify tag s).table = s.table ∧ (takeIdentify tag s).lanes = s.lanes ∧
    (takeIdentify tag s).governor = s.governor ∧ (takeIdentify tag s).locks = s.locks ∧ (takeIdentify tag s).pool = s.pool ∧
    (takeIdentify tag s).queue = s.queue ∧ (takeIdentify tag s).chans = s.chans ∧ (takeIdentify tag s).stripSent = s.stripSent ∧
    (takeIdentify tag s).losses = s.losses ∧ (takeIdentify tag s).writer = s.writer ∧ (takeIdentify tag s).monitors = s.monitors ∧
    (takeIdentify tag s).mail = s.mail ∧ (takeIdentify tag s).link.hunting = s.link.hunting ∧
    (takeIdentify tag s).link.gathered = s.link.gathered ∧ (takeIdentify tag s).link.held = s.link.held ∧
    (takeIdentify tag s).link.resetCause = s.link.resetCause ∧ (takeIdentify tag s).link.sent = s.link.sent := by
  simp [takeIdentify]

@[simp] theorem report_frame (tag : Tag) (r : Result) (s : State) :
    (report tag r s).pending = s.pending ∧ (report tag r s).now = s.now ∧ (report tag r s).plan = s.plan ∧
    (report tag r s).session = s.session ∧ (report tag r s).table = s.table ∧ (report tag r s).lanes = s.lanes ∧
    (report tag r s).governor = s.governor ∧ (report tag r s).locks = s.locks ∧ (report tag r s).pool = s.pool ∧
    (report tag r s).queue = s.queue ∧ (report tag r s).chans = s.chans ∧ (report tag r s).stripSent = s.stripSent ∧
    (report tag r s).losses = s.losses ∧ (report tag r s).writer = s.writer ∧ (report tag r s).monitors = s.monitors ∧
    (report tag r s).mail = s.mail ∧ (report tag r s).link.hunting = s.link.hunting ∧
    (report tag r s).link.gathered = s.link.gathered ∧ (report tag r s).link.held = s.link.held ∧
    (report tag r s).link.resetCause = s.link.resetCause ∧ (report tag r s).link.sent = s.link.sent := by
  simp [report]

@[simp] theorem takeQueryExtents_frame (tag : Tag) (q : IndexSpan) (s : State) :
    (takeQueryExtents tag q s).pending = s.pending ∧ (takeQueryExtents tag q s).now = s.now ∧
    (takeQueryExtents tag q s).plan = s.plan ∧ (takeQueryExtents tag q s).session = s.session ∧
    (takeQueryExtents tag q s).table = s.table ∧ (takeQueryExtents tag q s).lanes = s.lanes ∧
    (takeQueryExtents tag q s).governor = s.governor ∧ (takeQueryExtents tag q s).locks = s.locks ∧
    (takeQueryExtents tag q s).pool = s.pool ∧ (takeQueryExtents tag q s).queue = s.queue ∧
    (takeQueryExtents tag q s).chans = s.chans ∧ (takeQueryExtents tag q s).stripSent = s.stripSent ∧
    (takeQueryExtents tag q s).losses = s.losses ∧ (takeQueryExtents tag q s).writer = s.writer ∧
    (takeQueryExtents tag q s).monitors = s.monitors ∧ (takeQueryExtents tag q s).mail = s.mail ∧
    (takeQueryExtents tag q s).link.hunting = s.link.hunting ∧ (takeQueryExtents tag q s).link.gathered = s.link.gathered ∧
    (takeQueryExtents tag q s).link.held = s.link.held ∧ (takeQueryExtents tag q s).link.resetCause = s.link.resetCause ∧
    (takeQueryExtents tag q s).link.sent = s.link.sent := by
  unfold takeQueryExtents
  try dsimp only
  (repeat' split) <;> simp

@[simp] theorem takeQueryLosses_frame (tag : Tag) (q : IndexSpan) (s : State) :
    (takeQueryLosses tag q s).pending = s.pending ∧ (takeQueryLosses tag q s).now = s.now ∧ (takeQueryLosses tag q s).plan = s.plan ∧
    (takeQueryLosses tag q s).session = s.session ∧ (takeQueryLosses tag q s).table = s.table ∧
    (takeQueryLosses tag q s).lanes = s.lanes ∧ (takeQueryLosses tag q s).governor = s.governor ∧
    (takeQueryLosses tag q s).locks = s.locks ∧ (takeQueryLosses tag q s).pool = s.pool ∧ (takeQueryLosses tag q s).queue = s.queue ∧
    (takeQueryLosses tag q s).chans = s.chans ∧ (takeQueryLosses tag q s).stripSent = s.stripSent ∧
    (takeQueryLosses tag q s).losses = s.losses ∧ (takeQueryLosses tag q s).writer = s.writer ∧
    (takeQueryLosses tag q s).monitors = s.monitors ∧ (takeQueryLosses tag q s).mail = s.mail ∧
    (takeQueryLosses tag q s).link.hunting = s.link.hunting ∧ (takeQueryLosses tag q s).link.gathered = s.link.gathered ∧
    (takeQueryLosses tag q s).link.held = s.link.held ∧ (takeQueryLosses tag q s).link.resetCause = s.link.resetCause ∧
    (takeQueryLosses tag q s).link.sent = s.link.sent := by
  unfold takeQueryLosses
  try dsimp only
  (repeat' split) <;> simp

@[simp] theorem beginStart_frame (g : ArrayGroup) (tag : Tag) (s : State) :
    (beginStart g tag s).pending = s.pending ∧ (beginStart g tag s).now = s.now ∧ (beginStart g tag s).plan = s.plan ∧
    (beginStart g tag s).lanes = s.lanes ∧ (beginStart g tag s).governor = s.governor ∧ (beginStart g tag s).locks = s.locks ∧
    (beginStart g tag s).queue = s.queue ∧ (beginStart g tag s).stripSent = s.stripSent ∧ (beginStart g tag s).monitors = s.monitors ∧
    (beginStart g tag s).mail.claims = s.mail.claims ∧ (beginStart g tag s).mail.answers = s.mail.answers ∧
    (beginStart g tag s).mail.grants = s.mail.grants ∧ (beginStart g tag s).mail.triggers = s.mail.triggers ∧
    (beginStart g tag s).mail.signals = s.mail.signals ∧ (beginStart g tag s).link.hunting = s.link.hunting ∧
    (beginStart g tag s).link.gathered = s.link.gathered ∧ (beginStart g tag s).link.held = s.link.held ∧
    (beginStart g tag s).link.resetCause = s.link.resetCause ∧ (beginStart g tag s).link.sent = s.link.sent ∧
    owed (beginStart g tag s).link = owed s.link := by
  simp [beginStart]

@[simp] theorem takeStart_frame (tag : Tag) (s : State) :
    (takeStart tag s).pending = s.pending ∧ (takeStart tag s).now = s.now ∧ (takeStart tag s).plan = s.plan ∧
    (takeStart tag s).lanes = s.lanes ∧ (takeStart tag s).governor = s.governor ∧ (takeStart tag s).locks = s.locks ∧
    (takeStart tag s).queue = s.queue ∧ (takeStart tag s).stripSent = s.stripSent ∧ (takeStart tag s).monitors = s.monitors ∧
    (takeStart tag s).mail.claims = s.mail.claims ∧ (takeStart tag s).mail.answers = s.mail.answers ∧
    (takeStart tag s).mail.grants = s.mail.grants ∧ (takeStart tag s).mail.triggers = s.mail.triggers ∧
    (takeStart tag s).mail.signals = s.mail.signals ∧ (takeStart tag s).link.hunting = s.link.hunting ∧
    (takeStart tag s).link.gathered = s.link.gathered ∧ (takeStart tag s).link.held = s.link.held ∧
    (takeStart tag s).link.resetCause = s.link.resetCause ∧ (takeStart tag s).link.sent = s.link.sent := by
  unfold takeStart
  try dsimp only
  (repeat' split) <;> simp

@[simp] theorem beginRestore_frame (g : ArrayGroup) (tag : Tag) (s : State) :
    (beginRestore g tag s).pending = s.pending ∧ (beginRestore g tag s).now = s.now ∧ (beginRestore g tag s).plan = s.plan ∧
    (beginRestore g tag s).table = s.table ∧ (beginRestore g tag s).lanes = s.lanes ∧ (beginRestore g tag s).governor = s.governor ∧
    (beginRestore g tag s).locks = s.locks ∧ (beginRestore g tag s).pool = s.pool ∧ (beginRestore g tag s).queue = s.queue ∧
    (beginRestore g tag s).stripSent = s.stripSent ∧ (beginRestore g tag s).losses = s.losses ∧
    (beginRestore g tag s).monitors = s.monitors ∧ (beginRestore g tag s).mail.told = s.mail.told ∧
    (beginRestore g tag s).mail.claims = s.mail.claims ∧ (beginRestore g tag s).mail.answers = s.mail.answers ∧
    (beginRestore g tag s).mail.grants = s.mail.grants ∧ (beginRestore g tag s).mail.reservations = s.mail.reservations ∧
    (beginRestore g tag s).mail.triggers = s.mail.triggers ∧ (beginRestore g tag s).mail.signals = s.mail.signals ∧
    (beginRestore g tag s).link.hunting = s.link.hunting ∧ (beginRestore g tag s).link.gathered = s.link.gathered ∧
    (beginRestore g tag s).link.held = s.link.held ∧ (beginRestore g tag s).link.resetCause = s.link.resetCause ∧
    (beginRestore g tag s).link.sent = s.link.sent ∧ owed (beginRestore g tag s).link = owed s.link := by
  simp [beginRestore]

@[simp] theorem takeRestore_frame (tag : Tag) (s : State) :
    (takeRestore tag s).pending = s.pending ∧ (takeRestore tag s).now = s.now ∧ (takeRestore tag s).plan = s.plan ∧
    (takeRestore tag s).table = s.table ∧ (takeRestore tag s).lanes = s.lanes ∧ (takeRestore tag s).governor = s.governor ∧
    (takeRestore tag s).locks = s.locks ∧ (takeRestore tag s).pool = s.pool ∧ (takeRestore tag s).queue = s.queue ∧
    (takeRestore tag s).stripSent = s.stripSent ∧ (takeRestore tag s).losses = s.losses ∧ (takeRestore tag s).monitors = s.monitors ∧
    (takeRestore tag s).mail.told = s.mail.told ∧ (takeRestore tag s).mail.claims = s.mail.claims ∧
    (takeRestore tag s).mail.answers = s.mail.answers ∧ (takeRestore tag s).mail.grants = s.mail.grants ∧
    (takeRestore tag s).mail.reservations = s.mail.reservations ∧ (takeRestore tag s).mail.triggers = s.mail.triggers ∧
    (takeRestore tag s).mail.signals = s.mail.signals ∧ (takeRestore tag s).link.hunting = s.link.hunting ∧
    (takeRestore tag s).link.gathered = s.link.gathered ∧ (takeRestore tag s).link.held = s.link.held ∧
    (takeRestore tag s).link.resetCause = s.link.resetCause ∧ (takeRestore tag s).link.sent = s.link.sent := by
  unfold takeRestore
  try dsimp only
  (repeat' split) <;> simp

@[simp] theorem takePause_frame (tag : Tag) (s : State) :
    (takePause tag s).pending = s.pending ∧ (takePause tag s).now = s.now ∧ (takePause tag s).plan = s.plan ∧
    (takePause tag s).table = s.table ∧ (takePause tag s).lanes = s.lanes ∧ (takePause tag s).governor = s.governor ∧
    (takePause tag s).locks = s.locks ∧ (takePause tag s).queue = s.queue ∧ (takePause tag s).stripSent = s.stripSent ∧
    (takePause tag s).losses = s.losses ∧ (takePause tag s).monitors = s.monitors ∧ (takePause tag s).mail.claims = s.mail.claims ∧
    (takePause tag s).mail.answers = s.mail.answers ∧ (takePause tag s).mail.grants = s.mail.grants ∧
    (takePause tag s).mail.signals = s.mail.signals ∧
    (takePause tag s).link.hunting = s.link.hunting ∧ (takePause tag s).link.gathered = s.link.gathered ∧
    (takePause tag s).link.held = s.link.held ∧ (takePause tag s).link.resetCause = s.link.resetCause ∧
    (takePause tag s).link.sent = s.link.sent := by
  unfold takePause
  try dsimp only
  (repeat' split) <;> simp

@[simp] theorem takeContinue_frame (tag : Tag) (s : State) :
    (takeContinue tag s).pending = s.pending ∧ (takeContinue tag s).now = s.now ∧ (takeContinue tag s).plan = s.plan ∧
    (takeContinue tag s).table = s.table ∧ (takeContinue tag s).governor = s.governor ∧ (takeContinue tag s).locks = s.locks ∧
    (takeContinue tag s).queue = s.queue ∧ (takeContinue tag s).stripSent = s.stripSent ∧ (takeContinue tag s).losses = s.losses ∧
    (takeContinue tag s).monitors = s.monitors ∧ (takeContinue tag s).mail.answers = s.mail.answers ∧
    (takeContinue tag s).mail.grants = s.mail.grants ∧ (takeContinue tag s).mail.triggers = s.mail.triggers ∧
    (takeContinue tag s).mail.signals = s.mail.signals ∧ (takeContinue tag s).link.hunting = s.link.hunting ∧
    (takeContinue tag s).link.gathered = s.link.gathered ∧ (takeContinue tag s).link.held = s.link.held ∧
    (takeContinue tag s).link.resetCause = s.link.resetCause ∧ (takeContinue tag s).link.sent = s.link.sent := by
  unfold takeContinue
  try dsimp only
  (repeat' split) <;> simp

@[simp] theorem takeAbort_frame (tag : Tag) (s : State) :
    (takeAbort tag s).pending = s.pending ∧ (takeAbort tag s).now = s.now ∧ (takeAbort tag s).plan = s.plan ∧
    (takeAbort tag s).queue = s.queue ∧ (takeAbort tag s).stripSent = s.stripSent ∧ (takeAbort tag s).losses = s.losses ∧
    (takeAbort tag s).monitors = s.monitors ∧ (takeAbort tag s).mail.answers = s.mail.answers ∧
    (takeAbort tag s).mail.signals = s.mail.signals ∧
    (takeAbort tag s).link.hunting = s.link.hunting ∧ (takeAbort tag s).link.gathered = s.link.gathered ∧
    (takeAbort tag s).link.held = s.link.held ∧ (takeAbort tag s).link.resetCause = s.link.resetCause ∧
    (takeAbort tag s).link.sent = s.link.sent := by
  unfold takeAbort
  try dsimp only
  (repeat' split) <;> simp

@[simp] theorem takeRelease_frame (tag : Tag) (s : State) :
    (takeRelease tag s).pending = s.pending ∧ (takeRelease tag s).now = s.now ∧ (takeRelease tag s).plan = s.plan ∧
    (takeRelease tag s).lanes = s.lanes ∧ (takeRelease tag s).governor = s.governor ∧ (takeRelease tag s).locks = s.locks ∧
    (takeRelease tag s).pool = s.pool ∧ (takeRelease tag s).queue = s.queue ∧ (takeRelease tag s).stripSent = s.stripSent ∧
    (takeRelease tag s).monitors = s.monitors ∧ (takeRelease tag s).mail.endings = s.mail.endings ∧
    (takeRelease tag s).mail.grants = s.mail.grants ∧ (takeRelease tag s).mail.reservations = s.mail.reservations ∧
    (takeRelease tag s).mail.signals = s.mail.signals ∧ (takeRelease tag s).link.hunting = s.link.hunting ∧
    (takeRelease tag s).link.gathered = s.link.gathered ∧ (takeRelease tag s).link.held = s.link.held ∧
    (takeRelease tag s).link.resetCause = s.link.resetCause ∧ (takeRelease tag s).link.sent = s.link.sent := by
  unfold takeRelease
  try dsimp only
  (repeat' split) <;> simp

@[simp] theorem handToOwner_frame (tag : Tag) (r : Request) (s : State) :
    (handToOwner tag r s).pending = s.pending := by
  cases r <;> simp only [handToOwner, withBody] <;> (try split) <;> simp

@[simp] theorem dispatch_frame (tag : Tag) (r : Request) (s : State) :
    (dispatch tag r s).pending = s.pending := by
  unfold dispatch
  try dsimp only
  (repeat' split) <;> simp

@[simp] theorem setLink_frame (l : ControlLink) (s : State) :
    (setLink l s).pending = s.pending ∧ (setLink l s).now = s.now ∧ (setLink l s).plan = s.plan ∧ (setLink l s).session = s.session ∧
    (setLink l s).table = s.table ∧ (setLink l s).lanes = s.lanes ∧ (setLink l s).governor = s.governor ∧
    (setLink l s).locks = s.locks ∧ (setLink l s).pool = s.pool ∧ (setLink l s).queue = s.queue ∧ (setLink l s).chans = s.chans ∧
    (setLink l s).stripSent = s.stripSent ∧ (setLink l s).losses = s.losses ∧ (setLink l s).writer = s.writer ∧
    (setLink l s).monitors = s.monitors ∧ (setLink l s).mail = s.mail := by
  simp [setLink]

@[simp] theorem gather_frame (bs : List Byte) (s : State) :
    (gather bs s).pending = s.pending ∧ (gather bs s).now = s.now ∧ (gather bs s).plan = s.plan ∧ (gather bs s).session = s.session ∧
    (gather bs s).table = s.table ∧ (gather bs s).lanes = s.lanes ∧ (gather bs s).governor = s.governor ∧
    (gather bs s).locks = s.locks ∧ (gather bs s).pool = s.pool ∧ (gather bs s).queue = s.queue ∧ (gather bs s).chans = s.chans ∧
    (gather bs s).stripSent = s.stripSent ∧ (gather bs s).losses = s.losses ∧ (gather bs s).writer = s.writer ∧
    (gather bs s).monitors = s.monitors ∧ (gather bs s).mail = s.mail := by
  unfold gather
  try dsimp only
  (repeat' split) <;> simp

@[simp] theorem backToHunt_frame (s : State) :
    (backToHunt s).pending = s.pending ∧ (backToHunt s).now = s.now ∧ (backToHunt s).plan = s.plan ∧
    (backToHunt s).session = s.session ∧ (backToHunt s).table = s.table ∧ (backToHunt s).lanes = s.lanes ∧
    (backToHunt s).governor = s.governor ∧ (backToHunt s).locks = s.locks ∧ (backToHunt s).pool = s.pool ∧
    (backToHunt s).queue = s.queue ∧ (backToHunt s).chans = s.chans ∧ (backToHunt s).stripSent = s.stripSent ∧
    (backToHunt s).losses = s.losses ∧ (backToHunt s).writer = s.writer ∧ (backToHunt s).monitors = s.monitors ∧
    (backToHunt s).mail = s.mail := by
  simp [backToHunt]

@[simp] theorem raiseLinkError_frame (why : LinkErrorReason) (type : Byte) (s : State) :
    (raiseLinkError why type s).pending = s.pending ∧ (raiseLinkError why type s).now = s.now ∧
    (raiseLinkError why type s).plan = s.plan ∧ (raiseLinkError why type s).session = s.session ∧
    (raiseLinkError why type s).table = s.table ∧ (raiseLinkError why type s).lanes = s.lanes ∧
    (raiseLinkError why type s).governor = s.governor ∧ (raiseLinkError why type s).locks = s.locks ∧
    (raiseLinkError why type s).pool = s.pool ∧ (raiseLinkError why type s).queue = s.queue ∧
    (raiseLinkError why type s).chans = s.chans ∧ (raiseLinkError why type s).stripSent = s.stripSent ∧
    (raiseLinkError why type s).losses = s.losses ∧ (raiseLinkError why type s).writer = s.writer ∧
    (raiseLinkError why type s).monitors = s.monitors ∧ (raiseLinkError why type s).mail = s.mail ∧
    (raiseLinkError why type s).link.hunting = s.link.hunting ∧ (raiseLinkError why type s).link.gathered = s.link.gathered ∧
    (raiseLinkError why type s).link.held = s.link.held ∧ (raiseLinkError why type s).link.resetCause = s.link.resetCause ∧
    (raiseLinkError why type s).link.sent = s.link.sent ∧ owed (raiseLinkError why type s).link = owed s.link := by
  simp [raiseLinkError]

@[simp] theorem holdBytes_frame (bs : List Byte) (s : State) :
    (holdBytes bs s).pending = s.pending ∧ (holdBytes bs s).now = s.now ∧ (holdBytes bs s).plan = s.plan ∧
    (holdBytes bs s).session = s.session ∧ (holdBytes bs s).table = s.table ∧ (holdBytes bs s).lanes = s.lanes ∧
    (holdBytes bs s).governor = s.governor ∧ (holdBytes bs s).locks = s.locks ∧ (holdBytes bs s).pool = s.pool ∧
    (holdBytes bs s).queue = s.queue ∧ (holdBytes bs s).chans = s.chans ∧ (holdBytes bs s).stripSent = s.stripSent ∧
    (holdBytes bs s).losses = s.losses ∧ (holdBytes bs s).writer = s.writer ∧ (holdBytes bs s).monitors = s.monitors ∧
    (holdBytes bs s).mail = s.mail := by
  simp [holdBytes]

@[simp] theorem searchBytes_frame (n : Nat) (bs : List Byte) (s : State) :
    (searchBytes n bs s).pending = s.pending := by
  induction n generalizing bs s with
  | zero => simp [searchBytes]
  | succ n ih =>
    unfold searchBytes
    dsimp only
    (repeat' split) <;> simp [ih]

@[simp] theorem takeBytes_frame (bs : List Byte) (s : State) :
    (takeBytes bs s).pending = s.pending := by
  simp [takeBytes]

@[simp] theorem takeAsBytes_frame (tag : Tag) (r : Request) (s : State) :
    (takeAsBytes tag r s).pending = s.pending := by
  simp [takeAsBytes]

@[simp] theorem takeInbound_frame (x : Inbound) (s : State) :
    (takeInbound x s).pending = s.pending := by
  unfold takeInbound
  try dsimp only
  (repeat' split) <;> simp

@[simp] theorem receive_frame (x : Inbound) (s : State) :
    (receive x s).pending = s.pending := by
  unfold receive
  try dsimp only
  (repeat' split) <;> simp

@[simp] theorem takeHeld_frame (s : State) :
    (takeHeld s).pending = s.pending := by
  unfold takeHeld
  try dsimp only
  (repeat' split) <;> simp

@[simp] theorem takeLinkUp_frame (c : Chan) (s : State) :
    (takeLinkUp c s).pending = s.pending ∧ (takeLinkUp c s).now = s.now ∧ (takeLinkUp c s).plan = s.plan ∧
    (takeLinkUp c s).session = s.session ∧ (takeLinkUp c s).table = s.table ∧ (takeLinkUp c s).lanes = s.lanes ∧
    (takeLinkUp c s).governor = s.governor ∧ (takeLinkUp c s).locks = s.locks ∧ (takeLinkUp c s).pool = s.pool ∧
    (takeLinkUp c s).queue = s.queue ∧ (takeLinkUp c s).losses = s.losses ∧ (takeLinkUp c s).writer = s.writer ∧
    (takeLinkUp c s).monitors = s.monitors ∧ (takeLinkUp c s).link = s.link ∧ (takeLinkUp c s).mail = s.mail := by
  unfold takeLinkUp
  try dsimp only
  (repeat' split) <;> simp

@[simp] theorem takeFirstTold_frame (c : Chan) (s : State) :
    (takeFirstTold c s).pending = s.pending ∧ (takeFirstTold c s).now = s.now ∧ (takeFirstTold c s).plan = s.plan ∧
    (takeFirstTold c s).queue = s.queue ∧ (takeFirstTold c s).stripSent = s.stripSent ∧ (takeFirstTold c s).losses = s.losses ∧
    (takeFirstTold c s).monitors = s.monitors ∧ (takeFirstTold c s).mail.answers = s.mail.answers ∧
    (takeFirstTold c s).mail.signals = s.mail.signals ∧
    (takeFirstTold c s).link.hunting = s.link.hunting ∧ (takeFirstTold c s).link.gathered = s.link.gathered ∧
    (takeFirstTold c s).link.held = s.link.held ∧ (takeFirstTold c s).link.resetCause = s.link.resetCause ∧
    (takeFirstTold c s).link.sent = s.link.sent := by
  unfold takeFirstTold
  try dsimp only
  (repeat' split) <;> simp

@[simp] theorem answerClaim_frame (l : Lane) (s : State) :
    (answerClaim l s).pending = s.pending ∧ (answerClaim l s).now = s.now ∧ (answerClaim l s).plan = s.plan ∧
    (answerClaim l s).session = s.session ∧ (answerClaim l s).lanes = s.lanes ∧ (answerClaim l s).governor = s.governor ∧
    (answerClaim l s).locks = s.locks ∧ (answerClaim l s).pool = s.pool ∧ (answerClaim l s).queue = s.queue ∧
    (answerClaim l s).chans = s.chans ∧ (answerClaim l s).stripSent = s.stripSent ∧ (answerClaim l s).losses = s.losses ∧
    (answerClaim l s).writer = s.writer ∧ (answerClaim l s).monitors = s.monitors ∧ (answerClaim l s).mail.endings = s.mail.endings ∧
    (answerClaim l s).mail.told = s.mail.told ∧ (answerClaim l s).mail.grants = s.mail.grants ∧
    (answerClaim l s).mail.reservations = s.mail.reservations ∧ (answerClaim l s).mail.triggers = s.mail.triggers ∧
    (answerClaim l s).mail.signals = s.mail.signals ∧ (answerClaim l s).link.hunting = s.link.hunting ∧
    (answerClaim l s).link.gathered = s.link.gathered ∧ (answerClaim l s).link.held = s.link.held ∧
    (answerClaim l s).link.resetCause = s.link.resetCause ∧ (answerClaim l s).link.sent = s.link.sent ∧
    owed (answerClaim l s).link = owed s.link := by
  unfold answerClaim
  try dsimp only
  (repeat' split) <;> simp

@[simp] theorem useAnswer_frame (g : ArrayGroup) (a : ClaimAnswer) (s : State) :
    (useAnswer g a s).pending = s.pending ∧ (useAnswer g a s).now = s.now ∧ (useAnswer g a s).plan = s.plan ∧
    (useAnswer g a s).queue = s.queue ∧ (useAnswer g a s).stripSent = s.stripSent ∧ (useAnswer g a s).losses = s.losses ∧
    (useAnswer g a s).mail.answers = s.mail.answers ∧ (useAnswer g a s).mail.grants = s.mail.grants ∧
    (useAnswer g a s).link.hunting = s.link.hunting ∧ (useAnswer g a s).link.gathered = s.link.gathered ∧
    (useAnswer g a s).link.held = s.link.held ∧ (useAnswer g a s).link.resetCause = s.link.resetCause ∧
    (useAnswer g a s).link.sent = s.link.sent ∧ owed (useAnswer g a s).link = owed s.link := by
  unfold useAnswer
  try dsimp only
  (repeat' split) <;> simp

@[simp] theorem takeAnswer_frame (l : Lane) (s : State) :
    (takeAnswer l s).pending = s.pending ∧ (takeAnswer l s).now = s.now ∧ (takeAnswer l s).plan = s.plan ∧
    (takeAnswer l s).queue = s.queue ∧ (takeAnswer l s).stripSent = s.stripSent ∧ (takeAnswer l s).losses = s.losses ∧
    (takeAnswer l s).mail.grants = s.mail.grants ∧ (takeAnswer l s).link.hunting = s.link.hunting ∧
    (takeAnswer l s).link.gathered = s.link.gathered ∧ (takeAnswer l s).link.held = s.link.held ∧
    (takeAnswer l s).link.resetCause = s.link.resetCause ∧ (takeAnswer l s).link.sent = s.link.sent ∧
    owed (takeAnswer l s).link = owed s.link := by
  unfold takeAnswer
  try dsimp only
  (repeat' split) <;> simp

@[simp] theorem useGrant_frame (g : ArrayGroup) (op : OpName) (s : State) :
    (useGrant g op s).pending = s.pending ∧ (useGrant g op s).now = s.now ∧ (useGrant g op s).plan = s.plan ∧
    (useGrant g op s).session = s.session ∧ (useGrant g op s).table = s.table ∧ (useGrant g op s).governor = s.governor ∧
    (useGrant g op s).locks = s.locks ∧ (useGrant g op s).chans = s.chans ∧ (useGrant g op s).stripSent = s.stripSent ∧
    (useGrant g op s).losses = s.losses ∧ (useGrant g op s).writer = s.writer ∧ (useGrant g op s).mail.endings = s.mail.endings ∧
    (useGrant g op s).mail.told = s.mail.told ∧ (useGrant g op s).mail.claims = s.mail.claims ∧
    (useGrant g op s).mail.answers = s.mail.answers ∧ (useGrant g op s).mail.grants = s.mail.grants ∧
    (useGrant g op s).mail.triggers = s.mail.triggers ∧ (useGrant g op s).link.hunting = s.link.hunting ∧
    (useGrant g op s).link.gathered = s.link.gathered ∧ (useGrant g op s).link.held = s.link.held ∧
    (useGrant g op s).link.resetCause = s.link.resetCause ∧ (useGrant g op s).link.sent = s.link.sent ∧
    owed (useGrant g op s).link = owed s.link := by
  unfold useGrant
  try dsimp only
  (repeat' split) <;> simp

@[simp] theorem takeLockGrant_frame (op : OpName) (s : State) :
    (takeLockGrant op s).pending = s.pending ∧ (takeLockGrant op s).now = s.now ∧ (takeLockGrant op s).plan = s.plan ∧
    (takeLockGrant op s).session = s.session ∧ (takeLockGrant op s).table = s.table ∧ (takeLockGrant op s).governor = s.governor ∧
    (takeLockGrant op s).locks = s.locks ∧ (takeLockGrant op s).chans = s.chans ∧ (takeLockGrant op s).stripSent = s.stripSent ∧
    (takeLockGrant op s).losses = s.losses ∧ (takeLockGrant op s).writer = s.writer ∧
    (takeLockGrant op s).mail.endings = s.mail.endings ∧ (takeLockGrant op s).mail.told = s.mail.told ∧
    (takeLockGrant op s).mail.claims = s.mail.claims ∧ (takeLockGrant op s).mail.answers = s.mail.answers ∧
    (takeLockGrant op s).mail.triggers = s.mail.triggers ∧ (takeLockGrant op s).link.hunting = s.link.hunting ∧
    (takeLockGrant op s).link.gathered = s.link.gathered ∧ (takeLockGrant op s).link.held = s.link.held ∧
    (takeLockGrant op s).link.resetCause = s.link.resetCause ∧ (takeLockGrant op s).link.sent = s.link.sent ∧
    owed (takeLockGrant op s).link = owed s.link := by
  unfold takeLockGrant
  split
  · next h => simp [takeGrant_frame h]
  · simp

@[simp] theorem useReservation_frame (g : ArrayGroup) (op : OpName) (s : State) :
    (useReservation g op s).pending = s.pending ∧ (useReservation g op s).now = s.now ∧ (useReservation g op s).plan = s.plan ∧
    (useReservation g op s).session = s.session ∧ (useReservation g op s).table = s.table ∧
    (useReservation g op s).governor = s.governor ∧ (useReservation g op s).stripSent = s.stripSent ∧
    (useReservation g op s).writer = s.writer ∧ (useReservation g op s).mail.told = s.mail.told ∧
    (useReservation g op s).mail.claims = s.mail.claims ∧ (useReservation g op s).mail.answers = s.mail.answers ∧
    (useReservation g op s).mail.triggers = s.mail.triggers ∧ (useReservation g op s).link.hunting = s.link.hunting ∧
    (useReservation g op s).link.gathered = s.link.gathered ∧ (useReservation g op s).link.held = s.link.held ∧
    (useReservation g op s).link.resetCause = s.link.resetCause ∧ (useReservation g op s).link.sent = s.link.sent := by
  unfold useReservation
  try dsimp only
  (repeat' split) <;> simp

@[simp] theorem takeBuffers_frame (op : OpName) (s : State) :
    (takeBuffers op s).pending = s.pending ∧ (takeBuffers op s).now = s.now ∧ (takeBuffers op s).plan = s.plan ∧
    (takeBuffers op s).session = s.session ∧ (takeBuffers op s).table = s.table ∧ (takeBuffers op s).governor = s.governor ∧
    (takeBuffers op s).stripSent = s.stripSent ∧ (takeBuffers op s).writer = s.writer ∧ (takeBuffers op s).mail.told = s.mail.told ∧
    (takeBuffers op s).mail.claims = s.mail.claims ∧ (takeBuffers op s).mail.answers = s.mail.answers ∧
    (takeBuffers op s).mail.triggers = s.mail.triggers ∧ (takeBuffers op s).link.hunting = s.link.hunting ∧
    (takeBuffers op s).link.gathered = s.link.gathered ∧ (takeBuffers op s).link.held = s.link.held ∧
    (takeBuffers op s).link.resetCause = s.link.resetCause ∧ (takeBuffers op s).link.sent = s.link.sent := by
  unfold takeBuffers
  split
  · next h => simp [takeReservation_frame h]
  · simp

@[simp] theorem laneRead_frame (l : Lane) (c : Chan) (s : State) :
    (laneRead l c s).pending = s.pending ∧ (laneRead l c s).now = s.now ∧ (laneRead l c s).plan = s.plan ∧
    (laneRead l c s).session = s.session ∧ (laneRead l c s).table = s.table ∧ (laneRead l c s).governor = s.governor ∧
    (laneRead l c s).locks = s.locks ∧ (laneRead l c s).pool = s.pool ∧ (laneRead l c s).queue = s.queue ∧
    (laneRead l c s).stripSent = s.stripSent ∧ (laneRead l c s).losses = s.losses ∧ (laneRead l c s).writer = s.writer ∧
    (laneRead l c s).mail.told = s.mail.told ∧ (laneRead l c s).mail.claims = s.mail.claims ∧
    (laneRead l c s).mail.answers = s.mail.answers ∧ (laneRead l c s).mail.grants = s.mail.grants ∧
    (laneRead l c s).mail.reservations = s.mail.reservations ∧ (laneRead l c s).mail.triggers = s.mail.triggers ∧
    (laneRead l c s).link.hunting = s.link.hunting ∧ (laneRead l c s).link.gathered = s.link.gathered ∧
    (laneRead l c s).link.held = s.link.held ∧ (laneRead l c s).link.resetCause = s.link.resetCause ∧
    (laneRead l c s).link.sent = s.link.sent ∧ owed (laneRead l c s).link = owed s.link := by
  unfold laneRead
  split
  · next h =>
    have h := takeEnding_frame h
    simp [h]
  · simp

@[simp] theorem laneWrite_frame (l : Lane) (s : State) :
    (laneWrite l s).pending = s.pending ∧ (laneWrite l s).now = s.now ∧ (laneWrite l s).plan = s.plan ∧
    (laneWrite l s).queue = s.queue ∧ (laneWrite l s).stripSent = s.stripSent ∧ (laneWrite l s).mail.answers = s.mail.answers ∧
    (laneWrite l s).link.hunting = s.link.hunting ∧ (laneWrite l s).link.gathered = s.link.gathered ∧
    (laneWrite l s).link.held = s.link.held ∧ (laneWrite l s).link.resetCause = s.link.resetCause ∧
    (laneWrite l s).link.sent = s.link.sent ∧ owed (laneWrite l s).link = owed s.link := by
  unfold laneWrite
  split
  · next h =>
    have h := takeEnding_frame h
    simp [h]
  · simp

@[simp] theorem governSignal_frame (s : State) :
    (governSignal s).pending = s.pending ∧ (governSignal s).now = s.now ∧ (governSignal s).plan = s.plan ∧
    (governSignal s).session = s.session ∧ (governSignal s).table = s.table ∧ (governSignal s).locks = s.locks ∧
    (governSignal s).pool = s.pool ∧ (governSignal s).queue = s.queue ∧ (governSignal s).chans = s.chans ∧
    (governSignal s).stripSent = s.stripSent ∧ (governSignal s).losses = s.losses ∧ (governSignal s).writer = s.writer ∧
    (governSignal s).monitors = s.monitors ∧ (governSignal s).mail.endings = s.mail.endings ∧
    (governSignal s).mail.told = s.mail.told ∧ (governSignal s).mail.answers = s.mail.answers ∧
    (governSignal s).mail.grants = s.mail.grants ∧ (governSignal s).mail.reservations = s.mail.reservations ∧
    (governSignal s).mail.triggers = s.mail.triggers ∧ (governSignal s).link.hunting = s.link.hunting ∧
    (governSignal s).link.gathered = s.link.gathered ∧ (governSignal s).link.held = s.link.held ∧
    (governSignal s).link.resetCause = s.link.resetCause ∧ (governSignal s).link.sent = s.link.sent ∧
    owed (governSignal s).link = owed s.link := by
  unfold governSignal
  try dsimp only
  (repeat' split) <;> simp

@[simp] theorem quietTimer_frame (s : State) :
    (quietTimer s).pending = s.pending ∧ (quietTimer s).plan = s.plan ∧ (quietTimer s).session = s.session ∧
    (quietTimer s).table = s.table ∧ (quietTimer s).locks = s.locks ∧ (quietTimer s).pool = s.pool ∧ (quietTimer s).queue = s.queue ∧
    (quietTimer s).chans = s.chans ∧ (quietTimer s).stripSent = s.stripSent ∧ (quietTimer s).losses = s.losses ∧
    (quietTimer s).writer = s.writer ∧ (quietTimer s).monitors = s.monitors ∧ (quietTimer s).mail.endings = s.mail.endings ∧
    (quietTimer s).mail.told = s.mail.told ∧ (quietTimer s).mail.answers = s.mail.answers ∧
    (quietTimer s).mail.grants = s.mail.grants ∧ (quietTimer s).mail.reservations = s.mail.reservations ∧
    (quietTimer s).mail.triggers = s.mail.triggers ∧ (quietTimer s).mail.signals = s.mail.signals ∧
    (quietTimer s).link.hunting = s.link.hunting ∧ (quietTimer s).link.gathered = s.link.gathered ∧
    (quietTimer s).link.held = s.link.held ∧ (quietTimer s).link.resetCause = s.link.resetCause ∧
    (quietTimer s).link.sent = s.link.sent ∧ owed (quietTimer s).link = owed s.link := by
  unfold quietTimer
  try dsimp only
  (repeat' split) <;> simp

@[simp] theorem fgRead_frame (tag : Tag) (c : Chan) (s : State) :
    (fgRead tag c s).pending = s.pending ∧ (fgRead tag c s).now = s.now ∧ (fgRead tag c s).plan = s.plan ∧
    (fgRead tag c s).session = s.session ∧ (fgRead tag c s).table = s.table ∧ (fgRead tag c s).lanes = s.lanes ∧
    (fgRead tag c s).governor = s.governor ∧ (fgRead tag c s).stripSent = s.stripSent ∧ (fgRead tag c s).writer = s.writer ∧
    (fgRead tag c s).mail.told = s.mail.told ∧ (fgRead tag c s).mail.claims = s.mail.claims ∧
    (fgRead tag c s).mail.answers = s.mail.answers ∧ (fgRead tag c s).mail.triggers = s.mail.triggers ∧
    (fgRead tag c s).link.hunting = s.link.hunting ∧ (fgRead tag c s).link.gathered = s.link.gathered ∧
    (fgRead tag c s).link.held = s.link.held ∧ (fgRead tag c s).link.resetCause = s.link.resetCause ∧
    (fgRead tag c s).link.sent = s.link.sent := by
  unfold fgRead
  split
  · next h =>
    have h := takeEnding_frame h
    (repeat' split) <;> simp [h]
  · simp

@[simp] theorem fgWrite_frame (tag : Tag) (c : Chan) (s : State) :
    (fgWrite tag c s).pending = s.pending ∧ (fgWrite tag c s).now = s.now ∧ (fgWrite tag c s).plan = s.plan ∧
    (fgWrite tag c s).session = s.session ∧ (fgWrite tag c s).lanes = s.lanes ∧ (fgWrite tag c s).governor = s.governor ∧
    (fgWrite tag c s).stripSent = s.stripSent ∧ (fgWrite tag c s).writer = s.writer ∧ (fgWrite tag c s).mail.claims = s.mail.claims ∧
    (fgWrite tag c s).mail.answers = s.mail.answers ∧ (fgWrite tag c s).mail.triggers = s.mail.triggers ∧
    (fgWrite tag c s).link.hunting = s.link.hunting ∧ (fgWrite tag c s).link.gathered = s.link.gathered ∧
    (fgWrite tag c s).link.held = s.link.held ∧ (fgWrite tag c s).link.resetCause = s.link.resetCause ∧
    (fgWrite tag c s).link.sent = s.link.sent := by
  unfold fgWrite
  split
  · next h =>
    have h := takeEnding_frame h
    (repeat' split) <;> simp [h]
  · simp

@[simp] theorem checkpointTrigger_frame (s : State) :
    (checkpointTrigger s).pending = s.pending ∧ (checkpointTrigger s).now = s.now ∧ (checkpointTrigger s).plan = s.plan ∧
    (checkpointTrigger s).session = s.session ∧ (checkpointTrigger s).table = s.table ∧ (checkpointTrigger s).lanes = s.lanes ∧
    (checkpointTrigger s).governor = s.governor ∧ (checkpointTrigger s).locks = s.locks ∧ (checkpointTrigger s).queue = s.queue ∧
    (checkpointTrigger s).stripSent = s.stripSent ∧ (checkpointTrigger s).losses = s.losses ∧
    (checkpointTrigger s).monitors = s.monitors ∧ (checkpointTrigger s).mail.claims = s.mail.claims ∧
    (checkpointTrigger s).mail.answers = s.mail.answers ∧ (checkpointTrigger s).mail.grants = s.mail.grants ∧
    (checkpointTrigger s).mail.signals = s.mail.signals ∧ (checkpointTrigger s).link.hunting = s.link.hunting ∧
    (checkpointTrigger s).link.gathered = s.link.gathered ∧ (checkpointTrigger s).link.held = s.link.held ∧
    (checkpointTrigger s).link.resetCause = s.link.resetCause ∧ (checkpointTrigger s).link.sent = s.link.sent ∧
    owed (checkpointTrigger s).link = owed s.link := by
  unfold checkpointTrigger
  try dsimp only
  (repeat' split) <;> simp

@[simp] theorem periodTimer_frame (s : State) :
    (periodTimer s).pending = s.pending ∧ (periodTimer s).plan = s.plan ∧ (periodTimer s).session = s.session ∧
    (periodTimer s).table = s.table ∧ (periodTimer s).lanes = s.lanes ∧ (periodTimer s).governor = s.governor ∧
    (periodTimer s).locks = s.locks ∧ (periodTimer s).queue = s.queue ∧ (periodTimer s).stripSent = s.stripSent ∧
    (periodTimer s).losses = s.losses ∧ (periodTimer s).monitors = s.monitors ∧ (periodTimer s).mail.claims = s.mail.claims ∧
    (periodTimer s).mail.answers = s.mail.answers ∧ (periodTimer s).mail.grants = s.mail.grants ∧
    (periodTimer s).mail.triggers = s.mail.triggers ∧ (periodTimer s).mail.signals = s.mail.signals ∧
    (periodTimer s).link.hunting = s.link.hunting ∧ (periodTimer s).link.gathered = s.link.gathered ∧
    (periodTimer s).link.held = s.link.held ∧ (periodTimer s).link.resetCause = s.link.resetCause ∧
    (periodTimer s).link.sent = s.link.sent ∧ owed (periodTimer s).link = owed s.link := by
  unfold periodTimer
  try dsimp only
  (repeat' split) <;> simp

@[simp] theorem checkpointWrite_frame (s : State) :
    (checkpointWrite s).pending = s.pending ∧ (checkpointWrite s).now = s.now ∧ (checkpointWrite s).plan = s.plan ∧
    (checkpointWrite s).governor = s.governor ∧ (checkpointWrite s).locks = s.locks ∧ (checkpointWrite s).queue = s.queue ∧
    (checkpointWrite s).stripSent = s.stripSent ∧ (checkpointWrite s).monitors = s.monitors ∧
    (checkpointWrite s).mail.grants = s.mail.grants ∧ (checkpointWrite s).mail.signals = s.mail.signals ∧
    (checkpointWrite s).link.hunting = s.link.hunting ∧ (checkpointWrite s).link.gathered = s.link.gathered ∧
    (checkpointWrite s).link.held = s.link.held ∧ (checkpointWrite s).link.resetCause = s.link.resetCause ∧
    (checkpointWrite s).link.sent = s.link.sent := by
  unfold checkpointWrite
  split
  · next h =>
    have h := takeEnding_frame h
    simp [h]
  · simp

@[simp] theorem checkpointRead_frame (s : State) :
    (checkpointRead s).pending = s.pending ∧ (checkpointRead s).now = s.now ∧ (checkpointRead s).plan = s.plan ∧
    (checkpointRead s).lanes = s.lanes ∧ (checkpointRead s).governor = s.governor ∧ (checkpointRead s).locks = s.locks ∧
    (checkpointRead s).queue = s.queue ∧ (checkpointRead s).stripSent = s.stripSent ∧ (checkpointRead s).mail.grants = s.mail.grants ∧
    (checkpointRead s).link.hunting = s.link.hunting ∧ (checkpointRead s).link.gathered = s.link.gathered ∧
    (checkpointRead s).link.held = s.link.held ∧ (checkpointRead s).link.resetCause = s.link.resetCause ∧
    (checkpointRead s).link.sent = s.link.sent := by
  unfold checkpointRead
  split
  · next h =>
    have h := takeEnding_frame h
    simp [h]
  · simp

end Sys2Proof.Machine
end

