-- ==== Sys2Proof/Laws/Dispatch.lean ====
section
/-! SUPPORT. What dispatch does with a record: held, refused, or handed to its owner (R176). -/

namespace Sys2Proof.Machine
open Sys2Proof

/-- Dispatch holds nothing where what arrives is gathered. -/
theorem Receives.mustHold {s : State} (h : Receives s) : mustHold s = false := by
  have := h.1
  exact decide_eq_false (by unfold Config.holdAt; omega)

/-- A command that carries a record hands it to the receiver. -/
theorem exec_record {c : Instr} {tag : Tag} {r : Request} (h : c.record = some (tag, r)) (s : State) :
    exec c s = .next (receive (.record tag r) s) := by
  cases c <;> simp [Instr.record] at h <;> obtain ⟨rfl, rfl⟩ := h <;> rfl

/-- Where the receiver gathers what arrives, it takes it. -/
theorem Receives.receive {s : State} (h : Receives s) (x : Inbound) : Machine.receive x s = takeInbound x s := by
  simp [Machine.receive, h.mustHold, h.2]

/-- A request that arrives in FRAME arrives as its bytes (R175). -/
theorem Receives.receive_frame {s : State} (h : Receives s) (frame : s.link.hunting = .frame) (tag : Tag) (r : Request) :
    Machine.receive (.record tag r) s = takeAsBytes tag r s := by
  simp [h.receive, takeInbound, frame]

/-- Where the manual lays the body out, a record carries what its type and body spell, whatever was gathered before (R176, R178). -/
@[simp] theorem requestFrom_laidOut {type : Byte} (h : openBody type = false) (carried : List Request) (body : List Byte) :
    requestFrom carried type body = requestOf type body := by
  simp [requestFrom, h]

/-- With no request among the bytes gathered, a record carries what its type and body spell. -/
@[simp] theorem requestFrom_nil (type : Byte) (body : List Byte) : requestFrom [] type body = requestOf type body := by
  unfold requestFrom; split <;> rfl

/-- A request of a type whose body is not laid out is what its bytes carry, if the receiver has gathered it last. -/
theorem requestFrom_open {r : Request} (h : openBody (typeCode r) = true) (carried : List Request) :
    requestFrom (r :: carried) (typeCode r) (bodyBytes r) = r := by
  simp [requestFrom, h]

/-- A type that is no request type is carried as it came. -/
theorem requestOf_unknown {type : Byte} (h : knownType type = false) (body : List Byte) : requestOf type body = .unknown type := by
  revert type
  intro type h
  unfold requestOf
  repeat rw [if_neg (fun e => by subst e; exact absurd h (by decide))]

/-- Such a type has no layout that is open. -/
theorem openBody_unknown : ∀ {type : Byte}, knownType type = false → openBody type = false := by decide

/-- The bytes of a well-formed request carry that request, whatever was gathered before it (R176, R178). -/
theorem requestFrom_bodyBytes {c : Instr} {tag : Tag} {r : Request} (h : c.record = some (tag, r)) (wf : c.wellFormed = true)
    (carried : List Request) : requestFrom (r :: carried) (typeCode r) (bodyBytes r) = r := by
  by_cases o : openBody (typeCode r) = true
  · exact requestFrom_open o carried
  rw [requestFrom_laidOut (by simpa using o)]
  cases c <;> simp only [Instr.record, Option.some.injEq, Prod.mk.injEq, reduceCtorEq] at h <;> obtain ⟨rfl, rfl⟩ := h
  case reset => rfl
  case unknownTypeRecord => 
    simp only [Instr.wellFormed, Bool.not_eq_true'] at wf
    exact requestOf_unknown wf _
  case identify b | start b | restore b | pause b | continueSession b | abort b | release b =>
    rcases b with _ | ⟨⟩
    · exact congrArg _ (emptyBody_malformed (by decide))
    · rfl
  case readBlocks b =>
    rcases b with _ | f
    · exact congrArg Request.readBlocks (readBody_malformed rfl)
    · exact congrArg Request.readBlocks (readBody_runBytes f)
  case writeBlocks b =>
    rcases b with _ | f
    · exact congrArg Request.writeBlocks (writeBody_malformed rfl)
    · simp only [Instr.wellFormed, WriteFields.whole, Bool.and_eq_true, decide_eq_true_eq] at wf
      exact congrArg Request.writeBlocks (writeBody_runBytes wf.1)
  all_goals exact absurd rfl o

/-- A frame may carry the bytes of a well-formed request (R173). -/
theorem bodyBytes_length {c : Instr} {tag : Tag} {r : Request} (h : c.record = some (tag, r)) (wf : c.wellFormed = true) :
    (bodyBytes r).length ≤ 131136 := by
  have long := openBytes_length r
  cases c <;> simp only [Instr.record, Option.some.injEq, Prod.mk.injEq, reduceCtorEq] at h <;> obtain ⟨rfl, rfl⟩ := h
  case identify b | start b | restore b | pause b | continueSession b | abort b | release b =>
    rcases b with _ | ⟨⟩
    · exact (malformedBody_spec (.inl (by decide))).2
    · exact Nat.zero_le _
  case readBlocks b =>
    rcases b with _ | f
    · exact (malformedBody_spec (.inr (.inl rfl))).2
    · simp [bodyBytes]
  case writeBlocks b =>
    rcases b with _ | f
    · exact (malformedBody_spec (.inr (.inr rfl))).2
    · simp only [Instr.wellFormed, WriteFields.whole, Bool.and_eq_true, decide_eq_true_eq] at wf
      simp only [bodyBytes, List.length_append, runBytes_length, blocksBytes_length]
      omega
  all_goals
    unfold bodyBytes
    split
    all_goals first | contradiction | (rw [if_pos (by simp [parses, openBody, typeCode])]; exact long)

/-- Where a record is accepted it is dispatched, with the receiver in HUNT and nothing gathered. -/
theorem Accepts.receive {s : State} (h : Accepts s) (tag : Tag) (r : Request) :
    receive (.record tag r) s = dispatch tag r (backToHunt s) := by
  simp [h.1.receive, takeInbound, h.2]

/-- The receiver's return to HUNT changes no tag's standing. -/
@[simp] theorem tagOutstanding_backToHunt (s : State) (tag : Tag) : tagOutstanding (backToHunt s) tag = tagOutstanding s tag := rfl

/-- A request of a known type, other than RESET, that passes the tag check is handed to its owner if its body parses, and refused
MALFORMED if it does not. -/
theorem Passes.receive {s : State} {tag : Tag} (h : Passes tag s) {r : Request} (known : ∀ t, r ≠ .unknown t) (notReset : r ≠ .reset) :
    Machine.receive (.record tag r) s =
      if parses r then handToOwner tag r (backToHunt s) else refuse tag (typeCode r) .malformed (backToHunt s) := by
  rw [h.1.receive]
  cases r <;> simp_all [dispatch, h.2] <;> split <;> simp_all

/-- A record that cannot be dispatched now is held behind what is held already. -/
theorem receive_held {s : State} (h : ¬ Receives s) (x : Inbound) :
    receive x s = setLink { s.link with held := s.link.held ++ [x] } s := by
  have : (mustHold s || !s.link.held.isEmpty) = true := by
    by_contra hc
    simp only [Bool.not_eq_true, Bool.or_eq_false_iff] at hc
    refine h ⟨?_, by simpa using hc.2⟩
    have := of_decide_eq_false hc.1
    unfold Config.holdAt at this
    omega
  simp [Machine.receive, this]

end Sys2Proof.Machine
end

