-- ==== Sys2Proof/Laws/Ends.lean ====
section
/-! SUPPORT. What the end of a foreground operation does besides its reply: its lock, its buffers, its entry and its events (R130, R131). -/

namespace Sys2Proof.Machine
open Sys2Proof

/-- An offer to a monitor reads the monitors and the session, and changes the monitors by them alone. -/
theorem offerEvent_monitors_congr {s u : State} (m : s.monitors = u.monitors) (st : s.session = u.session) (e : EventKind)
    (c : Option Chan) (i : Fin 4) :
    (offerEvent e c i s).monitors = (offerEvent e c i u).monitors ∧ (offerEvent e c i s).session = (offerEvent e c i u).session := by
  refine ⟨?_, by simp [st]⟩
  unfold offerEvent overflow signalGovernor
  dsimp only
  rw [m, st]
  (repeat' split) <;> simp_all

/-- What an event makes of the monitors depends on the monitors and the session alone. -/
theorem raiseEvent_monitors_congr {s u : State} (m : s.monitors = u.monitors) (st : s.session = u.session) (e : EventKind)
    (c : Option Chan) : (raiseEvent e c s).monitors = (raiseEvent e c u).monitors := by
  have h0 := offerEvent_monitors_congr m st e c 0
  have h1 := offerEvent_monitors_congr h0.1 h0.2 e c 1
  have h2 := offerEvent_monitors_congr h1.1 h1.2 e c 2
  exact (offerEvent_monitors_congr h2.1 h2.2 e c 3).1

/-- The events of an operation's end. -/
theorem endFg_events (e : FgEntry) (a : Answer) (r : Result) (s : State) : EndEvents e (e.reconstructed = true) s (endFg e a r s) := by
  -- the state after the events before the reply
  have early : ∀ s1 : State, s1.monitors = s.monitors → s1.session = s.session →
      EventIf (e.reconstructed = true) .fgReconstruct s
        (releaseBuffers (.fg e.tag) (if e.reconstructed then raiseEvent .fgReconstruct none s1 else s1)) := by
    intro s1 m st
    refine ⟨fun h => ?_, fun h => ?_⟩
    · simp only [releaseBuffers_frame, h, if_true]
      exact raiseEvent_monitors_congr m st _ _
    · simp only [releaseBuffers_frame, h]
      exact m
  have late : ∀ u : State, u.session = s.session → u.plan = s.plan → u.now = s.now →
      EventIf (s.plan.policy.latencyMs < s.now - e.arrival) .fgLate u (handFgReply e a r u) := by
    intro u _ p n
    refine ⟨fun h => ?_, fun h => ?_⟩
    · unfold handFgReply
      simp only [answer_frame, p, n, h, if_true]
      exact raiseEvent_monitors_congr (by simp) (by simp) _ _
    · unfold handFgReply
      simp only [answer_frame, p, n, h, if_false]
  unfold endFg
  dsimp only
  generalize hs1 : (if (e.write && e.fullStripe && decide (a = .done)) = true then removeLoss e.stripe s else s) = s1
  have k : s1.monitors = s.monitors ∧ s1.session = s.session ∧ s1.plan = s.plan ∧ s1.now = s.now := by
    subst hs1; split <;> simp
  refine ⟨_, ?_, early (releaseLock (.fg e.tag) e.stripe s1) (by simp [k]) (by simp [k]), late _ ?_ ?_ ?_⟩
  all_goals split <;> simp [k]

/-- What a release leaves of the lock table depends on the lock table alone. -/
theorem releaseLock_locks_congr {s u : State} (h : s.locks = u.locks) (op : OpName) (stripe : Nat) :
    (releaseLock op stripe s).locks = (releaseLock op stripe u).locks := by
  unfold releaseLock
  rw [h]
  split
  · exact h
  · simp only [serveEntry, h]

/-- What a release leaves of the buffer pool depends on the pool alone. -/
theorem releaseBuffers_pool_congr {s u : State} (h : s.pool = u.pool) (op : OpName) :
    (releaseBuffers op s).pool = (releaseBuffers op u).pool := by
  simp only [releaseBuffers, serveQueue, h]

/-- The end of an operation removes its entry, releases its lock and its buffers, and touches no channel. -/
theorem endFg_releases (e : FgEntry) (a : Answer) (r : Result) (s : State) :
    (endFg e a r s).queue = s.queue.filter (fun f => f.tag ≠ e.tag)
      ∧ (endFg e a r s).locks = (releaseLock (.fg e.tag) e.stripe s).locks
      ∧ (endFg e a r s).pool = (releaseBuffers (.fg e.tag) s).pool ∧ (endFg e a r s).chans = s.chans := by
  have hand : ∀ u : State, (handFgReply e a r u).queue = u.queue.filter (fun f => f.tag ≠ e.tag)
      ∧ (handFgReply e a r u).locks = u.locks ∧ (handFgReply e a r u).pool = u.pool ∧ (handFgReply e a r u).chans = u.chans := by
    intro u
    unfold handFgReply
    dsimp only
    split <;> simp
  have held : ∀ u : State, (releaseBuffers (.fg e.tag) u).queue = u.queue ∧ (releaseBuffers (.fg e.tag) u).locks = u.locks
      ∧ (releaseBuffers (.fg e.tag) u).chans = u.chans := by
    intro u; simp
  unfold endFg
  dsimp only
  generalize hs1 : (if (e.write && e.fullStripe && decide (a = .done)) = true then removeLoss e.stripe s else s) = s1
  have k : s1.queue = s.queue ∧ s1.locks = s.locks ∧ s1.pool = s.pool ∧ s1.chans = s.chans := by
    subst hs1; split <;> simp
  generalize hs3 : (if e.reconstructed = true then raiseEvent .fgReconstruct none (releaseLock (.fg e.tag) e.stripe s1)
    else releaseLock (.fg e.tag) e.stripe s1) = s3
  have k3 : s3.queue = s.queue ∧ s3.locks = (releaseLock (.fg e.tag) e.stripe s).locks ∧ s3.pool = s.pool ∧ s3.chans = s.chans := by
    rw [← releaseLock_locks_congr k.2.1]
    subst hs3; split <;> simp [k]
  obtain ⟨q, l, p, c⟩ := hand (releaseBuffers (.fg e.tag) s3)
  obtain ⟨q', l', c'⟩ := held s3
  exact ⟨by rw [q, q', k3.1], by rw [l, l', k3.2.1], by rw [p, releaseBuffers_pool_congr k3.2.2.1], by rw [c, c', k3.2.2.2]⟩

end Sys2Proof.Machine
end

