-- ==== Sys2Proof/Laws/Link.lean ====
section
/-! SUPPORT. The control link unit: what the sender may choose, what stays shown, and the law of the notice set (R181, R182). -/

namespace Sys2Proof.Machine
open Sys2Proof

/-! ## The sender's choice -/

/-- The oldest notice of a class is one of the notices. -/
theorem oldestOf_mem {p : PolicyGroup} {c : NoticeClass} {ns : List Notice} {n : Notice} (h : oldestOf p c ns = some n) : n ∈ ns := by
  have key : ∀ (l : List Notice) (b : Option Notice),
      (l.foldl (fun best n =>
        if noticeClass p n.kind = c then
          match best with
          | none => some n
          | some m => if n.order < m.order then some n else some m
        else best) b) = some n → b = some n ∨ n ∈ l := by
    intro l
    induction l with
    | nil => exact fun b h => Or.inl h
    | cons a l ih =>
      intro b h
      rcases ih _ h with h | h
      · beta_reduce at h
        split at h
        · cases b with
          | none => simp_all
          | some m => simp only at h; split at h <;> simp_all
        · exact Or.inl h
      · exact Or.inr (List.mem_cons_of_mem _ h)
  rcases key ns none h with h | h
  · cases h
  · exact h

/-- The notice set after a choice is the set, or the set without one notice. -/
theorem chooseNext_notices (p : PolicyGroup) (l : ControlLink) :
    (chooseNext p l).notices = l.notices ∨ ∃ n ∈ l.notices, (chooseNext p l).notices = l.notices.erase n := by
  unfold chooseNext
  split
  · exact Or.inl rfl
  · split
    · next m hm =>
      refine Or.inr ⟨m, ?_, rfl⟩
      rcases Option.or_eq_some_iff.1 hm with h | ⟨-, h⟩ <;> exact oldestOf_mem h
    · exact Or.inl rfl

/-- What the receiver's return to HUNT leaves of the link unit. -/
@[simp] theorem backToHunt_link (s : State) :
    (backToHunt s).link = { s.link with gathered := [], hunting := .hunt } := rfl

/-- Replies owed do not depend on what the receiver holds. -/
@[simp] theorem owed_receiver (l : ControlLink) (bs : List Byte) (h : Hunting) : owed { l with gathered := bs, hunting := h } = owed l := rfl

/-! ## What is shown -/

/-- A pending notice stays shown when the sender chooses. -/
theorem shown_chooseNext {k : NoticeKind} {i : Nat} {v : NoticeValue} (p : PolicyGroup) {l : ControlLink} (h : Shown k i v l)
    (hs : ∀ n, l.sender ≠ .sending (.notice n)) : Shown k i v (chooseNext p l) := by
  obtain ⟨n, h1, h2⟩ := h
  have hn : n ∈ l.notices := h1.resolve_right (hs n)
  unfold chooseNext
  split
  · exact ⟨n, Or.inl hn, h2⟩
  · split
    · next m hm =>
      by_cases e : m = n
      · exact ⟨m, Or.inr rfl, e ▸ h2⟩
      · exact ⟨n, Or.inl ((List.mem_erase_of_ne (Ne.symm e)).2 hn), h2⟩
    · exact ⟨n, Or.inl hn, h2⟩

/-- What is shown stays shown when an IDLE sender begins a record. -/
theorem shown_kick {k : NoticeKind} {i : Nat} {v : NoticeValue} (p : PolicyGroup) {l : ControlLink} (h : Shown k i v l) :
    Shown k i v (kick p l) := by
  unfold kick
  split
  · next hs => exact shown_chooseNext p h (by simp [hs])
  · exact h

/-- What is shown stays shown when a reply is handed over. -/
theorem shown_handReply {k : NoticeKind} {i : Nat} {v : NoticeValue} (r : Reply) {s : State} (h : Shown k i v s.link) :
    Shown k i v (handReply r s).link := shown_kick _ h

/-- An occurrence of a kind that is not silenced is shown, with its last value. -/
theorem shown_raised {k : NoticeKind} {i : Nat} {v : NoticeValue} {s : State} (h : silenced s.plan.policy k = false) :
    Shown k i v (raiseNotice k i v s).link := by
  refine shown_kick _ ?_
  unfold takeOccurrence
  split
  · next hh =>
    obtain ⟨n, hn, hk⟩ := List.any_eq_true.1 hh
    simp only [Notice.hasKey, decide_eq_true_eq] at hk
    refine ⟨{ n with count := min 65535 (n.count + 1), value := v }, Or.inl ?_, hk.1, hk.2, rfl⟩
    exact List.mem_map.2 ⟨n, hn, by simp [Notice.hasKey, hk]⟩
  · rw [h]
    exact ⟨_, Or.inl (List.mem_append_right _ (List.mem_singleton.2 rfl)), rfl, rfl, rfl⟩

/-- A notice of another key stays shown through an occurrence. -/
theorem shown_other {k k' : NoticeKind} {i i' : Nat} {v v' : NoticeValue} {s : State} (h : Shown k i v s.link)
    (hne : (k, i) ≠ (k', i')) : Shown k i v (raiseNotice k' i' v' s).link := by
  refine shown_kick _ ?_
  obtain ⟨n, h1, rfl, rfl, rfl⟩ := h
  unfold takeOccurrence
  split
  · refine ⟨n, h1.imp (fun hn => List.mem_map.2 ⟨n, hn, ?_⟩) id, rfl, rfl, rfl⟩
    have : n.hasKey k' i' = false := by
      simp only [Notice.hasKey, decide_eq_false_iff_not]
      rintro ⟨rfl, rfl⟩
      exact hne rfl
    simp [this]
  · split
    · exact ⟨n, h1, rfl, rfl, rfl⟩
    · exact ⟨n, h1.imp (List.mem_append_left _) id, rfl, rfl, rfl⟩

/-! ## The law of the notice set -/

/-- A part of a lawful notice set is lawful. -/
theorem NoticeLaw.sublist {l m : ControlLink} (h : NoticeLaw l) (hs : m.notices.Sublist l.notices) (ho : m.nextOrder = l.nextOrder) :
    NoticeLaw m :=
  ⟨h.1.sublist (hs.map _), h.2.1.sublist (hs.map _), fun n hn => ho ▸ h.2.2 n (hs.subset hn)⟩

/-- The sender's choice keeps the law. -/
theorem NoticeLaw.chooseNext {l : ControlLink} (h : NoticeLaw l) (p : PolicyGroup) : NoticeLaw (Machine.chooseNext p l) := by
  refine h.sublist ?_ (by simp)
  rcases chooseNext_notices p l with e | ⟨n, -, e⟩ <;> rw [e]
  exact List.erase_sublist

/-- An IDLE sender's beginning keeps the law. -/
theorem NoticeLaw.kick {l : ControlLink} (h : NoticeLaw l) (p : PolicyGroup) : NoticeLaw (Machine.kick p l) := by
  unfold Machine.kick
  split
  · exact h.chooseNext p
  · exact h

/-- An occurrence keeps the law: it merges under its key, is dropped, or joins with the next place in the order. -/
theorem NoticeLaw.takeOccurrence {l : ControlLink} (h : NoticeLaw l) (p : PolicyGroup) (k : NoticeKind) (i : Nat) (v : NoticeValue) :
    NoticeLaw (Machine.takeOccurrence p k i v l) := by
  obtain ⟨h1, h2, h3⟩ := h
  unfold Machine.takeOccurrence
  split
  · have e1 : ∀ n : Notice, (if n.hasKey k i then { n with count := min 65535 (n.count + 1), value := v } else n).key = n.key :=
      fun n => by split <;> rfl
    have e2 : ∀ n : Notice, (if n.hasKey k i then { n with count := min 65535 (n.count + 1), value := v } else n).order = n.order :=
      fun n => by split <;> rfl
    refine ⟨?_, ?_, ?_⟩
    · simpa [Function.comp_def, e1] using h1
    · simpa [Function.comp_def, e2] using h2
    · intro n hn
      obtain ⟨m, hm, rfl⟩ := List.mem_map.1 hn
      rw [e2]
      exact h3 m hm
  · next hk =>
    split
    · exact ⟨h1, h2, h3⟩
    · refine ⟨?_, ?_, ?_⟩
      · simp only [List.map_append, List.map_cons, List.map_nil]
        refine List.nodup_append.2 ⟨h1, List.nodup_singleton _, ?_⟩
        intro a ha b hb e
        obtain ⟨n, hn, rfl⟩ := List.mem_map.1 ha
        rw [List.mem_singleton.1 hb] at e
        simp only [Notice.key, Prod.mk.injEq] at e
        exact hk (List.any_eq_true.2 ⟨n, hn, by simp [Notice.hasKey, e]⟩)
      · simp only [List.map_append, List.map_cons, List.map_nil]
        refine List.nodup_append.2 ⟨h2, List.nodup_singleton _, ?_⟩
        intro a ha b hb e
        obtain ⟨n, hn, rfl⟩ := List.mem_map.1 ha
        rw [List.mem_singleton.1 hb] at e
        exact absurd e (Nat.ne_of_lt (h3 n hn))
      · intro n hn
        rcases List.mem_append.1 hn with hn | hn
        · exact Nat.lt_succ_of_lt (h3 n hn)
        · rw [List.mem_singleton.1 hn]
          exact Nat.lt_succ_self _

/-- Raising a notice keeps the law. -/
theorem NoticeLaw.raiseNotice {s : State} (h : NoticeLaw s.link) (k : NoticeKind) (i : Nat) (v : NoticeValue) :
    NoticeLaw (Machine.raiseNotice k i v s).link := (h.takeOccurrence _ k i v).kick _

/-- Handing over a reply keeps the law. -/
theorem NoticeLaw.handReply {s : State} (h : NoticeLaw s.link) (r : Reply) : NoticeLaw (Machine.handReply r s).link :=
  NoticeLaw.kick (l := { s.link with replies := s.link.replies ++ [r] }) h _

/-- The link unit after a reset keeps the law. -/
theorem NoticeLaw.reset (c : ResetCause) : NoticeLaw (ControlLink.reset c) := by simp [NoticeLaw, ControlLink.reset]

end Sys2Proof.Machine
end

