-- ==== Sys2Proof/Laws/Governor.lean ====
section
/-! SUPPORT. The rate governor and the lanes it admits (R90 to R94). -/

namespace Sys2Proof.Machine
open Sys2Proof

/-- Reading the lane whose record was replaced. -/
@[simp] theorem setLane_get (l : Lane) (r : LaneRec) (s : State) : (setLane l r s).lanes[l] = r := by simp [setLane]

/-- Reading another lane. -/
theorem setLane_get_ne {l k : Lane} (h : k ≠ l) (r : LaneRec) (s : State) : (setLane l r s).lanes[k] = s.lanes[k] := by
  simp only [setLane]
  exact Vector.getElem_set_ne _ _ (fun e => h (Fin.ext e.symm))

/-- Waking changes no lane that works. -/
theorem wakeOne_working {s : State} {l : Lane} (h : s.lanes[l].state ≠ .parked) : (wakeOne s).lanes[l] = s.lanes[l] := by
  unfold wakeOne
  split
  · split
    · next k hk =>
      have : l ≠ k := by
        rintro rfl
        have := List.find?_some hk
        simp only [LaneRec.working, ne_eq, decide_not, Bool.not_not, decide_eq_true_eq] at this
        exact h this
      exact setLane_get_ne this _ _
    · rfl
  · rfl

/-- Waking lanes changes no lane that works. -/
theorem wakeLanes_working {s : State} {l : Lane} (h : s.lanes[l].state ≠ .parked) : (wakeLanes s).lanes[l] = s.lanes[l] := by
  have a := wakeOne_working h
  have b := wakeOne_working (s := wakeOne s) (l := l) (a ▸ h)
  have c := wakeOne_working (s := wakeOne (wakeOne s)) (l := l) (b ▸ a ▸ h)
  have d := wakeOne_working (s := wakeOne (wakeOne (wakeOne s))) (l := l) (c ▸ b ▸ a ▸ h)
  exact d.trans (c.trans (b.trans a))

/-- Recomputing T gives the levels of R90 and R91. -/
theorem retarget_governor (s : State) :
    (retarget s).governor = { s.governor with
      target := targetLevel s
      effective := effectiveAfter (targetLevel s) s.governor.effective (workingLanes s.lanes) } := by
  unfold retarget effectiveAfter
  dsimp only
  split
  · next h => simp [setEffective, h]
  · next h =>
    split
    · next h' => split <;> simp [h']
    · split
      · next h'' => simp [setEffective, h'']
      · next h'' => simp [h, h'']

/-- Recomputing T changes no lane that works. -/
theorem retarget_working {s : State} {l : Lane} (h : s.lanes[l].state ≠ .parked) : (retarget s).lanes[l] = s.lanes[l] := by
  unfold retarget
  dsimp only
  (repeat' split) <;> first | rfl | exact (wakeLanes_working (by simpa [setEffective] using h)).trans (by simp [setEffective])

/-- A change of the effective level is shown by RATE-CHANGED, unless it is silenced. -/
theorem retarget_shown {s : State} (h : (retarget s).governor.effective ≠ s.governor.effective)
    (hs : silenced s.plan.policy .rateChanged = false) :
    Shown .rateChanged 255 (.level (retarget s).governor.effective) (retarget s).link := by
  revert h
  unfold retarget
  dsimp only
  (repeat' split) <;> intro h <;> simp only [wakeLanes_frame, setEffective, raiseNotice_frame] at h ⊢ <;>
    first | exact shown_raised hs | exact absurd rfl h

end Sys2Proof.Machine
end

