-- ==== Sys2Proof/Laws/Operands.lean ====
section
/-! SUPPORT. The operand checks, as the conditions they stand for. -/

namespace Sys2Proof.Machine
open Sys2Proof

/-- No check fails of none. -/
@[simp] theorem firstFailing_nil : firstFailing [] = none := rfl

/-- The first failing check is the head's, or the first of the rest. -/
@[simp] theorem firstFailing_cons (n : Nat) (b : Bool) (rest : List (Nat × Bool)) :
    firstFailing ((n, b) :: rest) = if b then firstFailing rest else some n := by
  cases b <;> rfl

/-- The first failing check of two lists, one behind the other. -/
theorem firstFailing_append (as bs : List (Nat × Bool)) : firstFailing (as ++ bs) = (firstFailing as).or (firstFailing bs) := by
  induction as with
  | nil => rfl
  | cons a as ih =>
    obtain ⟨n, b⟩ := a
    cases b <;> simp [ih]

/-- A number within a range. -/
@[simp] theorem within_iff (lo n hi : Nat) : within lo n hi = true ↔ lo ≤ n ∧ n ≤ hi := by simp [within]

/-- The strip sizes. -/
@[simp] theorem knownStrip_iff (k : Nat) : knownStrip k = true ↔ k = 16 ∨ k = 32 ∨ k = 64 ∨ k = 128 := by simp [knownStrip]

/-- The extent sizes. -/
@[simp] theorem knownExtentSize_iff (e : Nat) : knownExtentSize e = true ↔ ∃ i < 9, e = 256 * 2 ^ i := by simp [knownExtentSize]

end Sys2Proof.Machine
end

