-- ==== Sys2Proof/Laws/Tables.lean ====
section
/-! SUPPORT. The laws of the ahead set, the lost-strip list, the buffer pool, the lock table, the foreground queue and the channel records,
for the data alone: what each change of a table keeps. -/

namespace Sys2Proof.Machine
set_option Elab.async false
open Sys2Proof

/-! ## The ahead set (R68 to R70) -/

/-- A stripe removed. -/
theorem AheadLaw.erase {t : ExtentTable} (h : AheadLaw t) (n : Nat) {u : ExtentTable} (hu : u.ahead = t.ahead.erase n) : AheadLaw u := by
  rw [AheadLaw, hu]
  exact ⟨h.1.sublist List.erase_sublist, le_trans List.erase_sublist.length_le h.2⟩

/-- The members of a set after an insertion. -/
theorem mem_insertStripe {n m : Nat} {l : List Nat} : m ∈ insertStripe n l ↔ m = n ∨ m ∈ l := by
  induction l with
  | nil => simp [insertStripe]
  | cons a l ih =>
    unfold insertStripe
    (repeat' split) <;> simp_all
    tauto

/-- An insertion keeps the order. -/
theorem pairwise_insertStripe {n : Nat} {l : List Nat} (h : l.Pairwise (· < ·)) : (insertStripe n l).Pairwise (· < ·) := by
  induction l with
  | nil => simp [insertStripe]
  | cons a l ih =>
    obtain ⟨ha, hl⟩ := List.pairwise_cons.1 h
    unfold insertStripe
    split
    · next hn =>
      refine List.pairwise_cons.2 ⟨fun b hb => ?_, h⟩
      rcases List.mem_cons.1 hb with rfl | hb
      · exact hn
      · exact lt_trans hn (ha b hb)
    · split
      · exact h
      · refine List.pairwise_cons.2 ⟨fun b hb => ?_, ih hl⟩
        rcases mem_insertStripe.1 hb with rfl | hb
        · omega
        · exact ha b hb

/-- An insertion adds at most one stripe. -/
theorem length_insertStripe (n : Nat) (l : List Nat) : (insertStripe n l).length ≤ l.length + 1 := by
  induction l with
  | nil => simp [insertStripe]
  | cons a l ih =>
    unfold insertStripe
    (repeat' split) <;> simp <;> omega

/-- A stripe inserted into a set with room. -/
theorem AheadLaw.insert {t : ExtentTable} (h : AheadLaw t) (room : t.ahead.length < 256) (n : Nat) {u : ExtentTable}
    (hu : u.ahead = insertStripe n t.ahead) : AheadLaw u := by
  rw [AheadLaw, hu]
  exact ⟨pairwise_insertStripe h.1, le_trans (length_insertStripe _ _) room⟩

/-! ## The lost-strip list (R148 to R151) -/

/-- The stripes after an insertion. -/
theorem mem_insertLoss {n r : LossRec} {l : List LossRec} : r ∈ insertLoss n l ↔ r = n ∨ r ∈ l := by
  induction l with
  | nil => simp [insertLoss]
  | cons a l ih =>
    unfold insertLoss
    split
    · simp
    · simp only [List.mem_cons, ih]
      tauto

/-- An insertion adds one record. -/
@[simp] theorem length_insertLoss (n : LossRec) (l : List LossRec) : (insertLoss n l).length = l.length + 1 := by
  induction l with
  | nil => rfl
  | cons a l ih =>
    unfold insertLoss
    split <;> simp [ih]

/-- A record of a new stripe inserted into a list with room. -/
theorem LossLaw.insert {l : List LossRec} (h : LossLaw l) (room : l.length < 256) {n : LossRec} (new : ∀ r ∈ l, r.stripe ≠ n.stripe) :
    LossLaw (insertLoss n l) := by
  refine ⟨?_, by simpa using room⟩
  replace h := h.1
  clear room
  induction l with
  | nil => simp [insertLoss]
  | cons a l ih =>
    rw [List.map_cons, List.pairwise_cons] at h
    unfold insertLoss
    split
    · next hn =>
      simp only [List.map_cons, List.pairwise_cons]
      refine ⟨fun b hb => ?_, h⟩
      rcases List.mem_cons.1 hb with rfl | hb
      · exact hn
      · exact lt_trans hn (h.1 b hb)
    · next hn =>
      simp only [List.map_cons, List.pairwise_cons]
      refine ⟨fun b hb => ?_, ih (fun r hr => new r (List.mem_cons_of_mem _ hr)) h.2⟩
      obtain ⟨r, hr, rfl⟩ := List.mem_map.1 hb
      rcases mem_insertLoss.1 hr with rfl | hr
      · have := new a List.mem_cons_self
        omega
      · exact h.1 _ (List.mem_map_of_mem hr)

/-- Records changed without their stripes. -/
theorem LossLaw.map {l : List LossRec} (h : LossLaw l) {f : LossRec → LossRec} (hf : ∀ r, (f r).stripe = r.stripe) :
    LossLaw (l.map f) := by
  refine ⟨?_, by simpa using h.2⟩
  simpa [List.map_map, Function.comp_def, hf] using h.1

/-- Records removed. -/
theorem LossLaw.filter {l : List LossRec} (h : LossLaw l) (p : LossRec → Bool) : LossLaw (l.filter p) :=
  ⟨h.1.sublist (List.filter_sublist.map _), le_trans (List.length_filter_le _ _) h.2⟩

/-- Strictly ascending, as a property. -/
theorem pairwise_of_ascending {l : List Nat} (h : ascending l = true) : l.Pairwise (· < ·) := by
  rw [← List.isChain_iff_pairwise]
  induction l with
  | nil => simp
  | cons a l ih =>
    cases l with
    | nil => simp
    | cons b l =>
      simp only [ascending, Bool.and_eq_true, decide_eq_true_eq] at h
      exact List.isChain_cons_cons.2 ⟨h.1, ih h.2⟩

/-- The losses of a well-formed record keep the law (R153, R154). -/
theorem LossLaw.ofRecord {bs : List Block} (h : wellFormedRecord bs = true) : LossLaw (recordLossList bs) := by
  simp only [wellFormedRecord, Bool.and_eq_true, Config.lossRoom, decide_eq_true_eq] at h
  refine ⟨pairwise_of_ascending h.2, le_trans (List.length_filterMap_le _ _) ?_⟩
  simp only [List.length_range]
  exact of_decide_eq_true h.1.1.2

/-! ## The buffer pool (R104 to R109) -/

/-- A reservation moves buffers and makes none. -/
theorem PoolLaw.reserve {p : BufferPool} (h : PoolLaw p) (r : BufferRequest) : PoolLaw (Machine.reserve r p) := by
  refine List.Perm.trans ?_ h
  simp only [Machine.reserve, List.flatMap_append, List.flatMap_cons, List.flatMap_nil, List.append_nil]
  have e : (p.free.take r.count ++ p.free.drop r.count) = p.free := List.take_append_drop _ _
  calc (p.free.drop r.count ++ (p.held.flatMap (·.ids) ++ p.free.take r.count)).Perm
        ((p.held.flatMap (·.ids) ++ p.free.take r.count) ++ p.free.drop r.count) := List.perm_append_comm
    _ = p.held.flatMap (·.ids) ++ p.free := by rw [List.append_assoc, e]
    List.Perm _ (p.free ++ p.held.flatMap (·.ids)) := List.perm_append_comm

/-- A pool with another wait queue. -/
theorem PoolLaw.waits {p q : BufferPool} (h : PoolLaw p) (hf : q.free = p.free) (hh : q.held = p.held) : PoolLaw q := by
  rw [PoolLaw, hf, hh]
  exact h

/-- Service of a class keeps the buffers. -/
theorem PoolLaw.serveClass {p : BufferPool} (h : PoolLaw p) (rs : List BufferRequest) : PoolLaw (Machine.serveClass rs p).2.2 := by
  induction rs generalizing p with
  | nil => exact h
  | cons r rs ih =>
    unfold Machine.serveClass
    split
    · exact ih (h.reserve r)
    · exact h

/-- Service of the wait queue keeps the buffers. -/
theorem PoolLaw.serve {p : BufferPool} (h : PoolLaw p) : PoolLaw (servePool p).2 := by
  unfold servePool
  dsimp only
  split
  · exact ((h.serveClass p.fgWait).serveClass p.laneWait).waits rfl rfl
  · exact (h.serveClass p.fgWait).waits rfl rfl

/-- A release returns what an operation held. -/
theorem PoolLaw.free {p : BufferPool} (h : PoolLaw p) (op : OpName) :
    PoolLaw { p with free := p.free ++ heldBy op p, held := p.held.filter fun r => r.op ≠ op } := by
  refine List.Perm.trans ?_ h
  rw [List.append_assoc]
  refine List.Perm.append_left _ ?_
  unfold heldBy
  rw [← List.flatMap_append]
  refine List.Perm.flatMap_right _ ?_
  have := List.filter_append_perm (fun r : Reservation => decide (r.op = op)) p.held
  simpa using this

/-! ## The stripe lock table (R98 to R102) -/

/-- An entry that fewer hold. -/
theorem EntryLaw.sublist {e f : LockEntry} (h : EntryLaw e) (hs : f.holders.Sublist e.holders) : EntryLaw f := by
  have hx : holdersIn .exclusive f ≤ holdersIn .exclusive e := hs.countP_le
  have hr : holdersIn .rebuild f ≤ holdersIn .rebuild e := hs.countP_le
  rcases h with ⟨h1, h2⟩ | ⟨h1, h2⟩
  · have hl := hs.length_le
    by_cases hf : f.holders = []
    · exact Or.inr ⟨by simp [holdersIn, hf], by simp [holdersIn, hf]⟩
    · have : f.holders = e.holders := hs.eq_of_length (by have := List.length_pos_iff.2 hf; omega)
      exact Or.inl ⟨by rw [holdersIn, this]; exact h1, by rw [this]; exact h2⟩
  · exact Or.inr ⟨by omega, by omega⟩

/-- An entry that a compatible mode joins (R99). -/
theorem EntryLaw.join {e f : LockEntry} (h : EntryLaw e) {w : LockPair} (hc : compatible w.mode e.holders = true)
    (hf : f.holders = e.holders ++ [w]) : EntryLaw f := by
  simp only [compatible, List.all_eq_true] at hc
  have ex : holdersIn .exclusive f = holdersIn .exclusive e + if w.mode = .exclusive then 1 else 0 := by
    simp [holdersIn, hf, List.countP_append, List.countP_cons]
  have er : holdersIn .rebuild f = holdersIn .rebuild e + if w.mode = .rebuild then 1 else 0 := by
    simp [holdersIn, hf, List.countP_append, List.countP_cons]
  have no : ∀ m, (∀ a, a ∈ e.holders → a.mode ≠ m) → holdersIn m e = 0 := fun m hm => by
    simpa [holdersIn, List.countP_eq_zero] using hm
  have nox : holdersIn .exclusive e = 0 := no _ fun a ha hm => by
    have := hc a ha
    rw [hm] at this
    cases hw : w.mode <;> rw [hw] at this <;> cases this
  cases hw : w.mode with
  | shared =>
    rcases h with ⟨h1, -⟩ | ⟨-, h2⟩
    · omega
    · exact Or.inr ⟨by simp [ex, hw, nox], by simp [er, hw, h2]⟩
  | rebuild =>
    have : holdersIn .rebuild e = 0 := no _ fun a ha hm => by
      have := hc a ha
      rw [hm, hw] at this
      cases this
    exact Or.inr ⟨by simp [ex, hw, nox], by simp [er, hw, this]⟩
  | exclusive =>
    have : e.holders = [] := by
      cases hh : e.holders with
      | nil => rfl
      | cons a l =>
        have := hc a (hh ▸ List.mem_cons_self)
        rw [hw] at this
        cases ha : a.mode <;> rw [ha] at this <;> cases this
    refine Or.inl ⟨by simp [ex, hw, nox], by simp [hf, this]⟩

/-- A law of an entry is a law of its holders alone. -/
theorem EntryLaw.congr {e f : LockEntry} (h : EntryLaw e) (hf : f.holders = e.holders) : EntryLaw f :=
  h.sublist (hf ▸ List.Sublist.refl _)

/-- Service of an entry keeps its law (R101). -/
theorem EntryLaw.serve {e : LockEntry} (h : EntryLaw e) : EntryLaw (servedEntry e) := by
  have key : ∀ (ws hs : List LockPair), EntryLaw { e with holders := hs } → EntryLaw { e with holders := (serveFifo hs ws).1 } := by
    intro ws
    induction ws with
    | nil => exact fun hs h => h
    | cons w ws ih =>
      intro hs h
      unfold serveFifo
      split
      · next hc => exact ih _ (h.join (e := { e with holders := hs }) hc rfl)
      · exact h
  exact (key e.waiters e.holders h).congr rfl

/-- A table whose entry of a stripe was replaced or went out of use. -/
theorem LockLaw.put {ls : List LockEntry} (h : LockLaw ls) {e : LockEntry} (he : EntryLaw e) : LockLaw (putEntry e ls) := by
  unfold putEntry
  split
  · exact ⟨h.1.sublist (List.filter_sublist.map _), fun f hf => h.2 f (List.mem_of_mem_filter hf)⟩
  · have hm : (fun f : LockEntry => (if f.stripe = e.stripe then e else f).stripe) = fun f => f.stripe := by
      funext f
      split <;> simp_all
    refine ⟨by simpa [List.map_map, Function.comp_def, hm] using h.1, fun f hf => ?_⟩
    obtain ⟨k, hk, rfl⟩ := List.mem_map.1 hf
    split
    · exact he
    · exact h.2 k hk

/-- A table with a new entry of one holder. -/
theorem LockLaw.new {ls : List LockEntry} (h : LockLaw ls) {stripe : Nat} (hn : lockEntry? ls stripe = none) (w : LockPair) :
    LockLaw (ls ++ [{ stripe, holders := [w], waiters := [] }]) := by
  have hn' : ∀ f ∈ ls, f.stripe ≠ stripe := by simpa [lockEntry?, List.find?_eq_none] using hn
  refine ⟨?_, fun f hf => ?_⟩
  · simp only [List.map_append, List.map_cons, List.map_nil]
    refine List.nodup_append.2 ⟨h.1, List.nodup_singleton _, fun a ha b hb e => ?_⟩
    obtain ⟨f, hf, rfl⟩ := List.mem_map.1 ha
    exact hn' f hf (e.trans (List.mem_singleton.1 hb))
  · rcases List.mem_append.1 hf with hf | hf
    · exact h.2 f hf
    · rw [List.mem_singleton.1 hf]
      cases hw : w.mode <;> simp [EntryLaw, holdersIn, hw]

/-- The entry that a table holds for a stripe keeps the law. -/
theorem LockLaw.entry {ls : List LockEntry} (h : LockLaw ls) {stripe : Nat} {e : LockEntry} (he : lockEntry? ls stripe = some e) :
    EntryLaw e := h.2 e (List.mem_of_find?_eq_some he)

/-! ## The foreground queue (R114) -/

/-- Entries changed without their tags. -/
theorem QueueLaw.map {q : List FgEntry} (h : QueueLaw q) {f : FgEntry → FgEntry} (hf : ∀ e, (f e).tag = e.tag) : QueueLaw (q.map f) := by
  refine ⟨by simpa using h.1, ?_⟩
  simpa [List.map_map, Function.comp_def, hf] using h.2

/-- Entries removed. -/
theorem QueueLaw.filter {q : List FgEntry} (h : QueueLaw q) (p : FgEntry → Bool) : QueueLaw (q.filter p) :=
  ⟨le_trans (List.length_filter_le _ _) h.1, h.2.sublist (List.filter_sublist.map _)⟩

/-- An entry of a new tag joins a queue with room. -/
theorem QueueLaw.join {q : List FgEntry} (h : QueueLaw q) (room : q.length < 32) {e : FgEntry} (new : ∀ f ∈ q, f.tag ≠ e.tag) :
    QueueLaw (q ++ [e]) := by
  refine ⟨by simpa using room, ?_⟩
  simp only [List.map_append, List.map_cons, List.map_nil]
  refine List.nodup_append.2 ⟨h.2, List.nodup_singleton _, fun a ha b hb he => ?_⟩
  obtain ⟨f, hf, rfl⟩ := List.mem_map.1 ha
  exact new f hf (he.trans (List.mem_singleton.1 hb))

/-! ## A channel record (R134 to R145) -/

/-- A command joins a class of an ONLINE channel. -/
theorem ChannelLaw.enqueue {r : ChannelRec} (h : ChannelLaw r) (hf : r.failed = false) (cls : CmdClass) (cmd : StripCmd) :
    ChannelLaw (Machine.enqueue cls cmd r) := by
  cases cls <;> exact ⟨h.1, h.2.1, fun hc => absurd (hf.symm.trans hc) (by decide)⟩

/-- A record whose commands only became fewer, its condition and count kept. -/
theorem ChannelLaw.shrink {r q : ChannelRec} (h : ChannelLaw r) (hf : q.failed = r.failed) (he : q.errors = r.errors)
    (hi : q.issued.length ≤ r.issued.length) (hg : q.fgPending.length ≤ r.fgPending.length)
    (hr : q.rebuildPending.length ≤ r.rebuildPending.length) : ChannelLaw q := by
  refine ⟨le_trans hi h.1, he ▸ h.2.1, fun hq => ?_⟩
  obtain ⟨a, b, c⟩ := h.2.2 (hf ▸ hq)
  rw [a] at hi
  rw [b] at hg
  rw [c] at hr
  exact ⟨List.eq_nil_of_length_eq_zero (Nat.le_zero.1 hi), List.eq_nil_of_length_eq_zero (Nat.le_zero.1 hg),
    List.eq_nil_of_length_eq_zero (Nat.le_zero.1 hr)⟩

/-- A record declared FAILED. -/
theorem ChannelLaw.failed {r : ChannelRec} (h : ChannelLaw r) :
    ChannelLaw { r with failed := true, issued := [], fgPending := [], rebuildPending := [] } :=
  ⟨Nat.zero_le _, h.2.1, fun _ => ⟨rfl, rfl, rfl⟩⟩

/-- A record made ONLINE, with another role and count. -/
theorem ChannelLaw.online {r : ChannelRec} (h : ChannelLaw r) (role : Role) :
    ChannelLaw { r with role, failed := false, errors := 0 } :=
  ⟨h.1, Nat.zero_le _, fun hc => by cases hc⟩

/-- The channels after one record was replaced. -/
theorem ChannelsLaw.set {v : Vector ChannelRec 16} (h : ChannelsLaw v) (c : Chan) {r : ChannelRec} (hr : ChannelLaw r) :
    ChannelsLaw (v.set c r) := by
  intro k
  simp only [Fin.getElem_fin, Vector.getElem_set]
  split
  · exact hr
  · exact h k

/-- The channels after every record was changed. -/
theorem ChannelsLaw.map {v : Vector ChannelRec 16} (h : ChannelsLaw v) {f : ChannelRec → ChannelRec}
    (hf : ∀ r, ChannelLaw r → ChannelLaw (f r)) : ChannelsLaw (v.map f) := by
  intro k
  simp only [Fin.getElem_fin, Vector.getElem_map]
  exact hf _ (h k)

end Sys2Proof.Machine
end

