-- ==== Sys2Proof/Laws/Keeps.lean ====
section
/-! SUPPORT. The laws of the notice set, the ahead set, the lost-strip list, the pool, the lock table and the channels
under the operations of the rebuild, the session and the checkpoint writer: one lemma for each operation that touches one of them. -/

namespace Sys2Proof.Machine
set_option Elab.async false
set_option linter.unusedTactic false
set_option linter.unreachableTactic false
set_option linter.unnecessarySeqFocus false
open Sys2Proof

/-- A fold of an operation keeps what the operation keeps. -/
theorem foldl_law {α : Type} {P : State → Prop} {f : State → α → State} (hf : ∀ t x, P t → P (f t x)) (l : List α) {s : State}
    (h : P s) : P (l.foldl f s) := by
  induction l generalizing s with
  | nil => exact h
  | cons a l ih => exact ih (hf _ _ h)


@[simp] theorem raiseNotice_laws (k : NoticeKind) (subject : Nat) (v : NoticeValue) (s : State) :
    (NoticeLaw s.link → NoticeLaw (raiseNotice k subject v s).link) := fun h => h.raiseNotice k subject v

@[simp] theorem handReply_laws (r : Reply) (s : State) :
    (NoticeLaw s.link → NoticeLaw (handReply r s).link) := fun h => h.handReply r

@[simp] theorem answer_laws (tag : Tag) (type : Byte) (a : Answer) (r : Result) (s : State) :
    (NoticeLaw s.link → NoticeLaw (answer tag type a r s).link) := by
  intro h
  unfold answer
  try dsimp only
  (repeat' split) <;> first | (simp (maxDischargeDepth := 30) [h]; done) | exact h

@[simp] theorem refuse_laws (tag : Tag) (type : Byte) (why : Reason) (s : State) :
    (NoticeLaw s.link → NoticeLaw (refuse tag type why s).link) := by
  intro h
  unfold refuse
  try dsimp only
  (repeat' split) <;> first | (simp (maxDischargeDepth := 30) [h]; done) | exact h

@[simp] theorem answerLong_laws (a : Answer) (r : Result) (s : State) :
    (NoticeLaw s.link → NoticeLaw (answerLong a r s).link) := by
  intro h
  unfold answerLong
  try dsimp only
  (repeat' split) <;> first | (simp (maxDischargeDepth := 30) [h]; done) | exact h

@[simp] theorem evalHold_laws (s : State) :
    (NoticeLaw s.link → NoticeLaw (evalHold s).link) ∧ (AheadLaw s.table → AheadLaw (evalHold s).table) := by
  refine ⟨fun h => ?_, fun h => ?_⟩ <;> unfold evalHold <;> dsimp only <;> (repeat' split) <;>
    first
    | exact h
    | exact NoticeLaw.raiseNotice (s := { s with table := { s.table with holdWaiting := true } }) h _ _ _
    | (rw [(raiseNotice_frame _ _ _ _).2.2.2.2.1]; exact h)

@[simp] theorem overflow_laws (i : Fin 4) (s : State) :
    (NoticeLaw s.link → NoticeLaw (overflow i s).link) := by
  intro h
  unfold overflow
  try dsimp only
  (repeat' split) <;> first | (simp (maxDischargeDepth := 30) [h]; done) | exact h

@[simp] theorem offerEvent_laws (e : EventKind) (c : Option Chan) (i : Fin 4) (s : State) :
    (NoticeLaw s.link → NoticeLaw (offerEvent e c i s).link) := by
  intro h
  unfold offerEvent
  try dsimp only
  (repeat' split) <;> first | (simp (maxDischargeDepth := 30) [h]; done) | exact h

@[simp] theorem raiseEvent_laws (e : EventKind) (c : Option Chan) (s : State) :
    (NoticeLaw s.link → NoticeLaw (raiseEvent e c s).link) := by
  intro h
  unfold raiseEvent
  try dsimp only
  (repeat' split) <;> first | (simp (maxDischargeDepth := 30) [h]; done) | exact h

@[simp] theorem setExtent_laws (x : Nat) (r : ExtentRec) (s : State) :
    (AheadLaw s.table → AheadLaw (setExtent x r s).table) := fun h => h

@[simp] theorem takeClaim_laws (g : ArrayGroup) (l : Lane) (s : State) :
    (NoticeLaw s.link → NoticeLaw (takeClaim g l s).2.link) ∧ (AheadLaw s.table → AheadLaw (takeClaim g l s).2.table) := by
  refine ⟨fun h => ?_, fun h => ?_⟩ <;> unfold takeClaim <;> (try dsimp only) <;> (repeat' split) <;>
    first | (simp (maxDischargeDepth := 30) [h]; done) | exact h

@[simp] theorem finishExtent_laws (x : Nat) (s : State) :
    (NoticeLaw s.link → NoticeLaw (finishExtent x s).link) ∧ (AheadLaw s.table → AheadLaw (finishExtent x s).table) := by
  refine ⟨fun h => ?_, fun h => ?_⟩ <;> unfold finishExtent <;> (try dsimp only) <;> (repeat' split) <;>
    first | (simp (maxDischargeDepth := 30) [h]; done) | exact h

@[simp] theorem advanceCursor_laws (g : ArrayGroup) (x : Nat) (s : State) :
    (NoticeLaw s.link → NoticeLaw (advanceCursor g x s).2.link) ∧ (AheadLaw s.table → AheadLaw (advanceCursor g x s).2.table) := by
  refine ⟨fun h => ?_, fun h => ?_⟩ <;> unfold advanceCursor <;> dsimp only <;> (repeat' split)
  all_goals first
    | exact h
    | exact AheadLaw.erase h _ rfl
    | exact (finishExtent_laws _ _).2 (AheadLaw.erase h _ rfl)
    | exact (finishExtent_laws _ _).1 h

@[simp] theorem addAhead_laws (g : ArrayGroup) (stripe : Nat) (s : State) :
    (AheadLaw s.table → AheadLaw (addAhead g stripe s).table) := by
  intro h
  unfold addAhead
  split
  · next hc =>
    simp only [Bool.and_eq_true, decide_eq_true_eq] at hc
    exact AheadLaw.insert h hc.2 stripe rfl
  · exact h

@[simp] theorem releaseRecord_laws (x : Nat) (s : State) :
    (NoticeLaw s.link → NoticeLaw (releaseRecord x s).link) ∧ (AheadLaw s.table → AheadLaw (releaseRecord x s).table) := by
  refine ⟨fun h => ?_, fun h => ?_⟩ <;> unfold releaseRecord <;> (try dsimp only) <;> (repeat' split) <;>
    first | (simp (maxDischargeDepth := 30) [h]; done) | exact h

@[simp] theorem setEffective_laws (n : Nat) (s : State) :
    (NoticeLaw s.link → NoticeLaw (setEffective n s).link) := by
  intro h
  unfold setEffective
  try dsimp only
  (repeat' split) <;> first | (simp (maxDischargeDepth := 30) [h]; done) | exact h

@[simp] theorem retarget_laws (s : State) :
    (NoticeLaw s.link → NoticeLaw (retarget s).link) := by
  intro h
  unfold retarget
  try dsimp only
  (repeat' split) <;> first | (simp (maxDischargeDepth := 30) [h]; done) | exact h

@[simp] theorem takeParkReport_laws (s : State) :
    (NoticeLaw s.link → NoticeLaw (takeParkReport s).link) := by
  intro h
  unfold takeParkReport
  try dsimp only
  (repeat' split) <;> first | (simp (maxDischargeDepth := 30) [h]; done) | exact h

@[simp] theorem takeSignal_laws (s : State) :
    (NoticeLaw s.link → NoticeLaw (takeSignal s).link) := by
  intro h
  unfold takeSignal
  try dsimp only
  (repeat' split) <;> first | (simp (maxDischargeDepth := 30) [h]; done) | exact h

@[simp] theorem quietExpires_laws (s : State) :
    (NoticeLaw s.link → NoticeLaw (quietExpires s).link) := by
  intro h
  unfold quietExpires
  try dsimp only
  (repeat' split) <;> first | (simp (maxDischargeDepth := 30) [h]; done) | exact h

@[simp] theorem releaseExtent_laws (x : Nat) (s : State) :
    (NoticeLaw s.link → NoticeLaw (releaseExtent x s).link) ∧ (AheadLaw s.table → AheadLaw (releaseExtent x s).table) := by
  refine ⟨fun h => ?_, fun h => ?_⟩ <;> unfold releaseExtent <;> (try dsimp only) <;> (repeat' split) <;>
    first | (simp (maxDischargeDepth := 30) [h]; done) | exact h

@[simp] theorem lockWaitEvent_laws (op : OpName) (s : State) :
    (NoticeLaw s.link → NoticeLaw (lockWaitEvent op s).link) := by
  intro h
  unfold lockWaitEvent
  try dsimp only
  (repeat' split) <;> first | (simp (maxDischargeDepth := 30) [h]; done) | exact h

@[simp] theorem requestLock_laws (op : OpName) (mode : LockMode) (stripe : Nat) (s : State) :
    (NoticeLaw s.link → NoticeLaw (requestLock op mode stripe s).2.link) ∧
    (LockLaw s.locks → LockLaw (requestLock op mode stripe s).2.locks) := by
  refine ⟨fun h => ?_, fun h => ?_⟩
  · unfold requestLock
    (repeat' split) <;> first | exact h | exact (lockWaitEvent_laws _ _) h
  · unfold requestLock
    split
    · next hn => exact h.new hn _
    · next e he =>
      split
      · next hc => exact h.put ((h.entry he).join hc.2 rfl)
      · rw [(lockWaitEvent_frame _ _).2.2.2.2.2.2.2.1]
        exact h.put ((h.entry he).congr rfl)

@[simp] theorem serveEntry_laws (e : LockEntry) (s : State) :
    (LockLaw s.locks → EntryLaw e → LockLaw (serveEntry e s).locks) := fun h he => h.put he.serve

@[simp] theorem releaseLock_laws (op : OpName) (stripe : Nat) (s : State) :
    (LockLaw s.locks → LockLaw (releaseLock op stripe s).locks) := by
  intro h
  unfold releaseLock
  split
  · exact h
  · next e he => exact serveEntry_laws _ _ h ((h.entry he).sublist List.filter_sublist)

@[simp] theorem withdrawLock_laws (op : OpName) (stripe : Nat) (s : State) :
    (LockLaw s.locks → LockLaw (withdrawLock op stripe s).locks) := by
  intro h
  unfold withdrawLock
  split
  · exact h
  · next e he => exact serveEntry_laws { e with holders := _, waiters := _ } _ h ((h.entry he).sublist List.filter_sublist)

@[simp] theorem serveQueue_laws (s : State) :
    (PoolLaw s.pool → PoolLaw (serveQueue s).pool) := fun h => h.serve

@[simp] theorem requestBuffers_laws (r : BufferRequest) (s : State) :
    (NoticeLaw s.link → NoticeLaw (requestBuffers r s).link) ∧ (PoolLaw s.pool → PoolLaw (requestBuffers r s).pool) := by
  refine ⟨fun h => ?_, fun h => ?_⟩ <;> unfold requestBuffers <;> (repeat' split) <;>
    first
    | exact h
    | exact (raiseEvent_laws _ _ _) h
    | exact PoolLaw.reserve h r
    | (rw [(raiseEvent_frame _ _ _).2.2.2.2.2.2.2.2.1]; exact PoolLaw.waits h rfl rfl)

@[simp] theorem releaseBuffers_laws (op : OpName) (s : State) :
    (PoolLaw s.pool → PoolLaw (releaseBuffers op s).pool) := fun h => serveQueue_laws _ (h.free op)

@[simp] theorem withdrawBuffers_laws (l : Lane) (s : State) :
    (PoolLaw s.pool → PoolLaw (withdrawBuffers l s).pool) := fun h => releaseBuffers_laws _ _ (PoolLaw.waits h rfl rfl)

@[simp] theorem setChan_laws (c : Chan) (r : ChannelRec) (s : State) :
    (ChannelsLaw s.chans → ChannelLaw r → ChannelsLaw (setChan c r s).chans) := fun h hr => h.set c hr

@[simp] theorem handCommand_laws (c : Chan) (cls : CmdClass) (cmd : StripCmd) (s : State) :
    (ChannelsLaw s.chans → ChannelsLaw (handCommand c cls cmd s).chans) := by
  intro h
  unfold handCommand
  dsimp only
  split
  · exact h
  · next hf => exact h.set c ((h c).enqueue (by simpa using hf) cls cmd)

@[simp] theorem issueOne_laws (c : Chan) (s : State) :
    (ChannelsLaw s.chans → ChannelsLaw (issueOne c s).chans) := by
  intro h
  unfold issueOne
  dsimp only
  split
  · next hm =>
    simp only [mayIssue, Bool.and_eq_true, Bool.not_eq_true', decide_eq_true_eq] at hm
    split
    · next cmd r' hn =>
      have hr : r'.issued = s.chans[c].issued ∧ r'.errors = s.chans[c].errors ∧ r'.failed = s.chans[c].failed := by
        unfold nextPending at hn
        split at hn <;> cases hn <;> exact ⟨rfl, rfl, rfl⟩
      refine h.set c ⟨?_, ?_, fun hf => ?_⟩
      · have := hm.2
        simp only [Config.issueRoom] at this
        simp [hr.1]; omega
      · simpa [hr.2.1] using (h c).2.1
      · exact absurd (hm.1.1.1.symm.trans (hr.2.2.symm.trans hf)) (by decide)
    · exact h
  · exact h

@[simp] theorem serveChannel_laws (c : Chan) (s : State) :
    (ChannelsLaw s.chans → ChannelsLaw (serveChannel c s).chans) := by
  intro h
  unfold serveChannel
  try dsimp only
  (repeat' split) <;> first | (simp (maxDischargeDepth := 30) [h]; done) | exact h

@[simp] theorem settleOrphans_laws (l : Lane) (s : State) :
    (PoolLaw s.pool → PoolLaw (settleOrphans l s).pool) := by
  intro h
  unfold settleOrphans
  try dsimp only
  (repeat' split) <;> first | (simp (maxDischargeDepth := 30) [h]; done) | exact h

@[simp] theorem endCommand_laws (c : Chan) (cmd : StripCmd) (e : EndStatus) (s : State) :
    (PoolLaw s.pool → PoolLaw (endCommand c cmd e s).pool) := by
  intro h
  unfold endCommand
  try dsimp only
  (repeat' split) <;> first | (simp (maxDischargeDepth := 30) [h]; done) | exact h

@[simp] theorem declareFailed_laws (c : Chan) (cause : FailCause) (s : State) :
    (NoticeLaw s.link → NoticeLaw (declareFailed c cause s).link) ∧ (PoolLaw s.pool → PoolLaw (declareFailed c cause s).pool) ∧
    (ChannelsLaw s.chans → ChannelsLaw (declareFailed c cause s).chans) := by
  refine ⟨fun h => ?_, fun h => ?_, fun h => ?_⟩ <;> unfold declareFailed <;> dsimp only
  · refine NoticeLaw.raiseNotice ?_ _ _ _
    exact foldl_law (P := fun t => NoticeLaw t.link) (fun t x ht => by simpa using ht) _ h
  · simp only [tellSession_frame, raiseNotice_frame]
    exact foldl_law (P := fun t => PoolLaw t.pool) (fun t x ht => by simp [ht]) _ h
  · simp only [tellSession_frame, raiseNotice_frame]
    exact foldl_law (P := fun t => ChannelsLaw t.chans) (fun t x ht => by simpa using ht) _ (h.set c (h c).failed)

@[simp] theorem declareIfOnline_laws (c : Chan) (cause : FailCause) (s : State) :
    (NoticeLaw s.link → NoticeLaw (declareIfOnline c cause s).link) ∧ (PoolLaw s.pool → PoolLaw (declareIfOnline c cause s).pool) ∧
    (ChannelsLaw s.chans → ChannelsLaw (declareIfOnline c cause s).chans) := by
  refine ⟨fun h => ?_, fun h => ?_, fun h => ?_⟩ <;> unfold declareIfOnline <;> (try dsimp only) <;> (repeat' split) <;>
    first | (simp (maxDischargeDepth := 30) [h]; done) | exact h

@[simp] theorem reportFailure_laws (c : Chan) (s : State) :
    (NoticeLaw s.link → NoticeLaw (reportFailure c s).link) ∧ (PoolLaw s.pool → PoolLaw (reportFailure c s).pool) ∧
    (ChannelsLaw s.chans → ChannelsLaw (reportFailure c s).chans) := by
  refine ⟨fun h => ?_, fun h => ?_, fun h => ?_⟩ <;> unfold reportFailure <;> (try dsimp only) <;> (repeat' split) <;>
    first | (simp (maxDischargeDepth := 30) [h]; done) | exact h

@[simp] theorem countError_laws (c : Chan) (e : EndStatus) (s : State) :
    (NoticeLaw s.link → NoticeLaw (countError c e s).link) ∧ (PoolLaw s.pool → PoolLaw (countError c e s).pool) ∧
    (ChannelsLaw s.chans → ChannelsLaw (countError c e s).chans) := by
  refine ⟨fun h => ?_, fun h => ?_, fun h => ?_⟩
  · unfold countError; dsimp only; split <;> simp [h]
  · unfold countError; dsimp only; split <;> simp [h]
  · have key : ChannelsLaw (setChan c { s.chans[c] with errors := min 255 (s.chans[c].errors + 1) } s).chans :=
      h.set c ⟨(h c).1, Nat.min_le_left _ _, (h c).2.2⟩
    unfold countError; dsimp only; split
    · exact (declareIfOnline_laws _ _ _).2.2 (by rw [(raiseNotice_frame _ _ _ _).2.2.2.2.2.2.2.2.2.2.1]; exact key)
    · rw [(raiseNotice_frame _ _ _ _).2.2.2.2.2.2.2.2.2.2.1]; exact key

@[simp] theorem judgeEnding_laws (c : Chan) (cmd : StripCmd) (e : EndStatus) (s : State) :
    (NoticeLaw s.link → NoticeLaw (judgeEnding c cmd e s).link) ∧ (PoolLaw s.pool → PoolLaw (judgeEnding c cmd e s).pool) ∧
    (ChannelsLaw s.chans → ChannelsLaw (judgeEnding c cmd e s).chans) := by
  refine ⟨fun h => ?_, fun h => ?_, fun h => ?_⟩ <;> unfold judgeEnding <;> (try dsimp only) <;> (repeat' split) <;>
    first | (simp (maxDischargeDepth := 30) [h]; done) | exact h

@[simp] theorem takeLinkDown_laws (c : Chan) (s : State) :
    (NoticeLaw s.link → NoticeLaw (takeLinkDown c s).link) ∧ (PoolLaw s.pool → PoolLaw (takeLinkDown c s).pool) ∧
    (ChannelsLaw s.chans → ChannelsLaw (takeLinkDown c s).chans) := by
  refine ⟨fun h => ?_, fun h => ?_, fun h => ?_⟩ <;> unfold takeLinkDown <;> dsimp only <;> split <;>
    first | simp [h]; done | skip
  · exact (declareIfOnline_laws _ _ _).2.2 (h.set c (h c))
  · exact h.set c (h c)

@[simp] theorem lateCompletion_laws (c : Chan) (number : Word32) (st : StripStatus) (s : State) :
    (NoticeLaw s.link → NoticeLaw (lateCompletion c number st s).link) ∧
    (PoolLaw s.pool → PoolLaw (lateCompletion c number st s).pool) ∧
    (ChannelsLaw s.chans → ChannelsLaw (lateCompletion c number st s).chans) := by
  refine ⟨fun h => ?_, fun h => ?_, fun h => ?_⟩ <;> unfold lateCompletion <;> (try dsimp only) <;> (repeat' split) <;>
    first | (simp (maxDischargeDepth := 30) [h]; done) | exact h

@[simp] theorem unissue_laws (c : Chan) (i : Issued) (s : State) :
    (ChannelsLaw s.chans → ChannelsLaw (unissue c i s).chans) :=
  fun h => h.set c ((h c).shrink rfl rfl List.erase_sublist.length_le le_rfl le_rfl)

@[simp] theorem takeCompletion_laws (c : Chan) (number : Word32) (st : StripStatus) (s : State) :
    (NoticeLaw s.link → NoticeLaw (takeCompletion c number st s).link) ∧
    (PoolLaw s.pool → PoolLaw (takeCompletion c number st s).pool) ∧
    (ChannelsLaw s.chans → ChannelsLaw (takeCompletion c number st s).chans) := by
  refine ⟨fun h => ?_, fun h => ?_, fun h => ?_⟩ <;> unfold takeCompletion <;> (try dsimp only) <;> (repeat' split) <;>
    first | (simp (maxDischargeDepth := 30) [h]; done) | exact h

@[simp] theorem takeTimeout_laws (c : Chan) (number : Word32) (s : State) :
    (NoticeLaw s.link → NoticeLaw (takeTimeout c number s).link) ∧ (PoolLaw s.pool → PoolLaw (takeTimeout c number s).pool) ∧
    (ChannelsLaw s.chans → ChannelsLaw (takeTimeout c number s).chans) := by
  refine ⟨fun h => ?_, fun h => ?_, fun h => ?_⟩ <;> unfold takeTimeout <;> (try dsimp only) <;> (repeat' split) <;>
    first | (simp (maxDischargeDepth := 30) [h]; done) | exact h

@[simp] theorem takeResetAnswer_laws (c : Chan) (s : State) :
    (ChannelsLaw s.chans → ChannelsLaw (takeResetAnswer c s).chans) := fun h => h.set c (h c)

@[simp] theorem orphanCommands_laws (l : Lane) (s : State) :
    (PoolLaw s.pool → PoolLaw (orphanCommands l s).pool) ∧ (ChannelsLaw s.chans → ChannelsLaw (orphanCommands l s).chans) := by
  refine ⟨fun h => ?_, fun h => ?_⟩ <;> unfold orphanCommands
  · simp [h]
  · simp only [settleOrphans_frame]
    exact h.map fun r hr => hr.shrink rfl rfl (by simp [orphanChannel]) (List.length_filter_le _ _) (List.length_filter_le _ _)

@[simp] theorem setSession_laws (st : SessionState) (s : State) :
    (NoticeLaw s.link → NoticeLaw (setSession st s).link) := by
  intro h
  unfold setSession
  try dsimp only
  (repeat' split) <;> first | (simp (maxDischargeDepth := 30) [h]; done) | exact h

@[simp] theorem composeWrite_laws (g : ArrayGroup) (m : Mark) (s : State) :
    (NoticeLaw s.link → NoticeLaw (composeWrite g m s).link) ∧ (PoolLaw s.pool → PoolLaw (composeWrite g m s).pool) ∧
    (ChannelsLaw s.chans → ChannelsLaw (composeWrite g m s).chans) := by
  refine ⟨fun h => ?_, fun h => ?_, fun h => ?_⟩ <;> unfold composeWrite <;> (try dsimp only) <;> (repeat' split) <;>
    first | (simp (maxDischargeDepth := 30) [h]; done) | exact h

@[simp] theorem beginWrite_laws (m : Mark) (s : State) :
    (NoticeLaw s.link → NoticeLaw (beginWrite m s).link) ∧ (PoolLaw s.pool → PoolLaw (beginWrite m s).pool) ∧
    (ChannelsLaw s.chans → ChannelsLaw (beginWrite m s).chans) := by
  refine ⟨fun h => ?_, fun h => ?_, fun h => ?_⟩ <;> unfold beginWrite <;> (try dsimp only) <;> (repeat' split) <;>
    first | (simp (maxDischargeDepth := 30) [h]; done) | exact h

@[simp] theorem askMarked_laws (m : Mark) (s : State) :
    (NoticeLaw s.link → NoticeLaw (askMarked m s).link) ∧ (PoolLaw s.pool → PoolLaw (askMarked m s).pool) ∧
    (ChannelsLaw s.chans → ChannelsLaw (askMarked m s).chans) := by
  refine ⟨fun h => ?_, fun h => ?_, fun h => ?_⟩ <;> unfold askMarked <;> (try dsimp only) <;> (repeat' split) <;>
    first | (simp (maxDischargeDepth := 30) [h]; done) | exact h

@[simp] theorem takeTrigger_laws (s : State) :
    (NoticeLaw s.link → NoticeLaw (takeTrigger s).link) ∧ (PoolLaw s.pool → PoolLaw (takeTrigger s).pool) ∧
    (ChannelsLaw s.chans → ChannelsLaw (takeTrigger s).chans) := by
  refine ⟨fun h => ?_, fun h => ?_, fun h => ?_⟩ <;> unfold takeTrigger <;> (try dsimp only) <;> (repeat' split) <;>
    first | (simp (maxDischargeDepth := 30) [h]; done) | exact h

@[simp] theorem takeTriggers_laws (n : Nat) (s : State) :
    (NoticeLaw s.link → NoticeLaw (takeTriggers n s).link) ∧ (PoolLaw s.pool → PoolLaw (takeTriggers n s).pool) ∧
    (ChannelsLaw s.chans → ChannelsLaw (takeTriggers n s).chans) := by
  induction n generalizing s with
  | zero => exact ⟨id, id, id⟩
  | succ n ih =>
    exact ⟨fun h => (ih _).1 ((takeTrigger_laws s).1 h), fun h => (ih _).2.1 ((takeTrigger_laws s).2.1 h),
      fun h => (ih _).2.2 ((takeTrigger_laws s).2.2 h)⟩

@[simp] theorem takeAllTriggers_laws (s : State) :
    (NoticeLaw s.link → NoticeLaw (takeAllTriggers s).link) ∧ (PoolLaw s.pool → PoolLaw (takeAllTriggers s).pool) ∧
    (ChannelsLaw s.chans → ChannelsLaw (takeAllTriggers s).chans) :=
  takeTriggers_laws s.mail.triggers { s with mail := { s.mail with triggers := 0 } }

@[simp] theorem completionCheck_laws (s : State) :
    (NoticeLaw s.link → NoticeLaw (completionCheck s).link) ∧ (PoolLaw s.pool → PoolLaw (completionCheck s).pool) ∧
    (ChannelsLaw s.chans → ChannelsLaw (completionCheck s).chans) := by
  refine ⟨fun h => ?_, fun h => ?_, fun h => ?_⟩ <;> unfold completionCheck <;> (try dsimp only) <;> (repeat' split) <;>
    first | (simp (maxDischargeDepth := 30) [h]; done) | exact h

@[simp] theorem enterRunning_laws (s : State) :
    (NoticeLaw s.link → NoticeLaw (enterRunning s).link) ∧ (PoolLaw s.pool → PoolLaw (enterRunning s).pool) ∧
    (ChannelsLaw s.chans → ChannelsLaw (enterRunning s).chans) := by
  refine ⟨fun h => ?_, fun h => ?_, fun h => ?_⟩ <;> unfold enterRunning <;> (try dsimp only) <;> (repeat' split) <;>
    first | (simp (maxDischargeDepth := 30) [h]; done) | exact h

@[simp] theorem lanesParkedReport_laws (s : State) :
    (NoticeLaw s.link → NoticeLaw (lanesParkedReport s).link) ∧ (PoolLaw s.pool → PoolLaw (lanesParkedReport s).pool) ∧
    (ChannelsLaw s.chans → ChannelsLaw (lanesParkedReport s).chans) := by
  refine ⟨fun h => ?_, fun h => ?_, fun h => ?_⟩ <;> unfold lanesParkedReport <;> (try dsimp only) <;> (repeat' split) <;>
    first | (simp (maxDischargeDepth := 30) [h]; done) | exact h

@[simp] theorem reportIfParked_laws (s : State) :
    (NoticeLaw s.link → NoticeLaw (reportIfParked s).link) ∧ (PoolLaw s.pool → PoolLaw (reportIfParked s).pool) ∧
    (ChannelsLaw s.chans → ChannelsLaw (reportIfParked s).chans) := by
  refine ⟨fun h => ?_, fun h => ?_, fun h => ?_⟩ <;> unfold reportIfParked <;> (try dsimp only) <;> (repeat' split) <;>
    first | (simp (maxDischargeDepth := 30) [h]; done) | exact h

@[simp] theorem enterPausing_laws (cause : PauseCause) (s : State) :
    (NoticeLaw s.link → NoticeLaw (enterPausing cause s).link) := by
  intro h
  unfold enterPausing
  try dsimp only
  (repeat' split) <;> first | (simp (maxDischargeDepth := 30) [h]; done) | exact h

@[simp] theorem raiseLossLimit_laws (s : State) :
    (NoticeLaw s.link → NoticeLaw (raiseLossLimit s).link) := by
  intro h
  unfold raiseLossLimit
  try dsimp only
  (repeat' split) <;> first | (simp (maxDischargeDepth := 30) [h]; done) | exact h

@[simp] theorem takeLossReport_laws (s : State) :
    (NoticeLaw s.link → NoticeLaw (takeLossReport s).link) ∧ (PoolLaw s.pool → PoolLaw (takeLossReport s).pool) ∧
    (ChannelsLaw s.chans → ChannelsLaw (takeLossReport s).chans) := by
  refine ⟨fun h => ?_, fun h => ?_, fun h => ?_⟩ <;> unfold takeLossReport <;> (try dsimp only) <;> (repeat' split) <;>
    first | (simp (maxDischargeDepth := 30) [h]; done) | exact h

@[simp] theorem returnToIdle_laws (s : State) :
    (NoticeLaw s.link → NoticeLaw (returnToIdle s).link) ∧ (AheadLaw s.table → AheadLaw (returnToIdle s).table) ∧
    (LossLaw s.losses → LossLaw (returnToIdle s).losses) ∧ (ChannelsLaw s.chans → ChannelsLaw (returnToIdle s).chans) := by
  refine ⟨fun h => ?_, fun _ => ?_, fun _ => ?_, fun h => ?_⟩ <;> unfold returnToIdle
  · exact (setSession_laws _ _) h
  · simp [AheadLaw, ExtentTable.empty]
  · simp [LossLaw]
  · simp only [setSession_frame]
    exact h.map fun r hr => hr.online _

@[simp] theorem giveRoles_laws (g : ArrayGroup) (spareRole : Role) (s : State) :
    (ChannelsLaw s.chans → ChannelsLaw (giveRoles g spareRole s).chans) := by
  intro h c
  simp only [giveRoles, Fin.getElem_fin, Vector.getElem_ofFn]
  exact h c

@[simp] theorem spareBecomesMember_laws (g : ArrayGroup) (s : State) :
    (ChannelsLaw s.chans → ChannelsLaw (spareBecomesMember g s).chans) := fun h => h.set _ (h _)

@[simp] theorem enterComplete_laws (s : State) :
    (NoticeLaw s.link → NoticeLaw (enterComplete s).link) ∧ (ChannelsLaw s.chans → ChannelsLaw (enterComplete s).chans) := by
  refine ⟨fun h => ?_, fun h => ?_⟩ <;> unfold enterComplete <;> (try dsimp only) <;> (repeat' split) <;>
    first | (simp (maxDischargeDepth := 30) [h]; done) | exact h

@[simp] theorem endDraining_laws (s : State) :
    (NoticeLaw s.link → NoticeLaw (endDraining s).link) ∧ (AheadLaw s.table → AheadLaw (endDraining s).table) ∧
    (LossLaw s.losses → LossLaw (endDraining s).losses) ∧ (ChannelsLaw s.chans → ChannelsLaw (endDraining s).chans) := by
  refine ⟨fun h => ?_, fun h => ?_, fun h => ?_, fun h => ?_⟩ <;> unfold endDraining <;> (try dsimp only) <;> (repeat' split) <;>
    first | (simp (maxDischargeDepth := 30) [h]; done) | exact h

@[simp] theorem setLosses_laws (ls : List LossRec) (s : State) :
    (LossLaw ls → LossLaw (setLosses ls s).losses) := id

@[simp] theorem consultLimit_laws (s : State) :
    (NoticeLaw s.link → NoticeLaw (consultLimit s).link) ∧ (PoolLaw s.pool → PoolLaw (consultLimit s).pool) ∧
    (ChannelsLaw s.chans → ChannelsLaw (consultLimit s).chans) := by
  refine ⟨fun h => ?_, fun h => ?_, fun h => ?_⟩ <;> unfold consultLimit <;> (try dsimp only) <;> (repeat' split) <;>
    first | (simp (maxDischargeDepth := 30) [h]; done) | exact h

@[simp] theorem addLoss_laws (g : ArrayGroup) (stripe : Nat) (x : LostRange) (s : State) :
    (NoticeLaw s.link → NoticeLaw (addLoss g stripe x s).link) ∧ (LossLaw s.losses → LossLaw (addLoss g stripe x s).losses) ∧
    (PoolLaw s.pool → PoolLaw (addLoss g stripe x s).pool) ∧ (ChannelsLaw s.chans → ChannelsLaw (addLoss g stripe x s).chans) := by
  refine ⟨fun h => ?_, fun h => ?_, fun h => ?_, fun h => ?_⟩ <;> unfold addLoss
  · (repeat' split) <;> simp [h]
  · split
    · refine LossLaw.map h fun r => ?_
      split <;> rfl
    · next hn =>
      have hn' : ∀ r ∈ s.losses, r.stripe ≠ stripe := by simpa [lossOf, List.find?_eq_none] using hn
      split
      · next hr =>
        simp only [consultLimit_frame]
        exact LossLaw.insert h hr hn'
      · simpa using h
  · (repeat' split) <;> simp [h]
  · (repeat' split) <;> simp [h]

@[simp] theorem removeLoss_laws (stripe : Nat) (s : State) :
    (NoticeLaw s.link → NoticeLaw (removeLoss stripe s).link) ∧ (LossLaw s.losses → LossLaw (removeLoss stripe s).losses) := by
  refine ⟨fun h => ?_, fun h => ?_⟩ <;> unfold removeLoss <;> split
  · exact h
  · simp [h]
  · exact h
  · simp only [raiseNotice_frame]
    exact LossLaw.filter h _

@[simp] theorem reportPark_laws (l : Lane) (s : State) :
    (NoticeLaw s.link → NoticeLaw (reportPark l s).link) ∧ (PoolLaw s.pool → PoolLaw (reportPark l s).pool) ∧
    (ChannelsLaw s.chans → ChannelsLaw (reportPark l s).chans) := by
  refine ⟨fun h => ?_, fun h => ?_, fun h => ?_⟩ <;> unfold reportPark <;> (try dsimp only) <;> (repeat' split) <;>
    first | (simp (maxDischargeDepth := 30) [h]; done) | exact h

@[simp] theorem releaseHeld_laws (x : Option Nat) (s : State) :
    (NoticeLaw s.link → NoticeLaw (releaseHeld x s).link) ∧ (AheadLaw s.table → AheadLaw (releaseHeld x s).table) := by
  refine ⟨fun h => ?_, fun h => ?_⟩ <;> unfold releaseHeld <;> (try dsimp only) <;> (repeat' split) <;>
    first | (simp (maxDischargeDepth := 30) [h]; done) | exact h

@[simp] theorem parkLane_laws (l : Lane) (s : State) :
    (NoticeLaw s.link → NoticeLaw (parkLane l s).link) ∧ (AheadLaw s.table → AheadLaw (parkLane l s).table) ∧
    (PoolLaw s.pool → PoolLaw (parkLane l s).pool) ∧ (ChannelsLaw s.chans → ChannelsLaw (parkLane l s).chans) := by
  refine ⟨fun h => ?_, fun h => ?_, fun h => ?_, fun h => ?_⟩ <;> unfold parkLane <;> (try dsimp only) <;> (repeat' split) <;>
    first | (simp (maxDischargeDepth := 30) [h]; done) | exact h

@[simp] theorem releaseLaneLock_laws (l : Lane) (s : State) :
    (LockLaw s.locks → LockLaw (releaseLaneLock l s).locks) := by
  intro h
  unfold releaseLaneLock
  try dsimp only
  (repeat' split) <;> first | (simp (maxDischargeDepth := 30) [h]; done) | exact h

@[simp] theorem withdrawLaneLock_laws (l : Lane) (s : State) :
    (LockLaw s.locks → LockLaw (withdrawLaneLock l s).locks) := by
  intro h
  unfold withdrawLaneLock
  try dsimp only
  (repeat' split) <;> first | (simp (maxDischargeDepth := 30) [h]; done) | exact h

@[simp] theorem letGo_laws (l : Lane) (s : State) :
    (NoticeLaw s.link → NoticeLaw (letGo l s).link) ∧ (AheadLaw s.table → AheadLaw (letGo l s).table) ∧
    (PoolLaw s.pool → PoolLaw (letGo l s).pool) ∧ (LockLaw s.locks → LockLaw (letGo l s).locks) ∧
    (ChannelsLaw s.chans → ChannelsLaw (letGo l s).chans) := by
  refine ⟨fun h => ?_, fun h => ?_, fun h => ?_, fun h => ?_, fun h => ?_⟩ <;> unfold letGo <;>
    (try dsimp only) <;> (repeat' split) <;>
    first | (simp (maxDischargeDepth := 30) [h]; done) | exact h

@[simp] theorem parkAtOnce_laws (l : Lane) (s : State) :
    (NoticeLaw s.link → NoticeLaw (parkAtOnce l s).link) ∧ (AheadLaw s.table → AheadLaw (parkAtOnce l s).table) ∧
    (PoolLaw s.pool → PoolLaw (parkAtOnce l s).pool) ∧ (LockLaw s.locks → LockLaw (parkAtOnce l s).locks) ∧
    (ChannelsLaw s.chans → ChannelsLaw (parkAtOnce l s).chans) := by
  refine ⟨fun h => ?_, fun h => ?_, fun h => ?_, fun h => ?_, fun h => ?_⟩ <;> unfold parkAtOnce <;>
    (try dsimp only) <;> (repeat' split) <;>
    first | (simp (maxDischargeDepth := 30) [h]; done) | exact h

@[simp] theorem parkAll_laws (s : State) :
    (NoticeLaw s.link → NoticeLaw (parkAll s).link) ∧ (AheadLaw s.table → AheadLaw (parkAll s).table) ∧
    (PoolLaw s.pool → PoolLaw (parkAll s).pool) ∧ (LockLaw s.locks → LockLaw (parkAll s).locks) ∧
    (ChannelsLaw s.chans → ChannelsLaw (parkAll s).chans) := by
  refine ⟨fun h => ?_, fun h => ?_, fun h => ?_, fun h => ?_, fun h => ?_⟩ <;> unfold parkAll <;>
    (try dsimp only) <;> (repeat' split) <;>
    first | (simp (maxDischargeDepth := 30) [h]; done) | exact h

@[simp] theorem enterBufferWait_laws (g : ArrayGroup) (l : Lane) (s : State) :
    (NoticeLaw s.link → NoticeLaw (enterBufferWait g l s).link) ∧ (PoolLaw s.pool → PoolLaw (enterBufferWait g l s).pool) := by
  refine ⟨fun h => ?_, fun h => ?_⟩ <;> unfold enterBufferWait <;> (try dsimp only) <;> (repeat' split) <;>
    first | (simp (maxDischargeDepth := 30) [h]; done) | exact h

@[simp] theorem seekLock_laws (g : ArrayGroup) (l : Lane) (stripe : Nat) (s : State) :
    (NoticeLaw s.link → NoticeLaw (seekLock g l stripe s).link) ∧ (PoolLaw s.pool → PoolLaw (seekLock g l stripe s).pool) ∧
    (LockLaw s.locks → LockLaw (seekLock g l stripe s).locks) := by
  refine ⟨fun h => ?_, fun h => ?_, fun h => ?_⟩ <;> unfold seekLock <;> (try dsimp only) <;> (repeat' split) <;>
    first | (simp (maxDischargeDepth := 30) [h]; done) | exact h

@[simp] theorem beginStripe_laws (g : ArrayGroup) (l : Lane) (n : Nat) (s : State) :
    (NoticeLaw s.link → NoticeLaw (beginStripe g l n s).link) ∧ (AheadLaw s.table → AheadLaw (beginStripe g l n s).table) ∧
    (PoolLaw s.pool → PoolLaw (beginStripe g l n s).pool) ∧ (LockLaw s.locks → LockLaw (beginStripe g l n s).locks) ∧
    (ChannelsLaw s.chans → ChannelsLaw (beginStripe g l n s).chans) := by
  induction n generalizing s with
  | zero => exact ⟨id, id, id, id, id⟩
  | succ n ih =>
    refine ⟨fun h => ?_, fun h => ?_, fun h => ?_, fun h => ?_, fun h => ?_⟩ <;> unfold beginStripe decideBoundary <;>
      dsimp only <;> (repeat' split) <;> simp (maxDischargeDepth := 30) [h, ih]

@[simp] theorem takeUpStripe_laws (g : ArrayGroup) (l : Lane) (s : State) :
    (NoticeLaw s.link → NoticeLaw (takeUpStripe g l s).link) ∧ (AheadLaw s.table → AheadLaw (takeUpStripe g l s).table) ∧
    (PoolLaw s.pool → PoolLaw (takeUpStripe g l s).pool) ∧ (LockLaw s.locks → LockLaw (takeUpStripe g l s).locks) ∧
    (ChannelsLaw s.chans → ChannelsLaw (takeUpStripe g l s).chans) := by
  refine ⟨fun h => ?_, fun h => ?_, fun h => ?_, fun h => ?_, fun h => ?_⟩ <;> unfold takeUpStripe <;>
    (try dsimp only) <;> (repeat' split) <;>
    first | (simp (maxDischargeDepth := 30) [h]; done) | exact h

@[simp] theorem boundary_laws (g : ArrayGroup) (l : Lane) (finished : Bool) (s : State) :
    (NoticeLaw s.link → NoticeLaw (boundary g l finished s).link) ∧ (AheadLaw s.table → AheadLaw (boundary g l finished s).table) ∧
    (PoolLaw s.pool → PoolLaw (boundary g l finished s).pool) ∧ (LockLaw s.locks → LockLaw (boundary g l finished s).locks) ∧
    (ChannelsLaw s.chans → ChannelsLaw (boundary g l finished s).chans) := by
  refine ⟨fun h => ?_, fun h => ?_, fun h => ?_, fun h => ?_, fun h => ?_⟩ <;> unfold boundary decideBoundary <;> (repeat' split) <;>
    simp (maxDischargeDepth := 30) [h]

@[simp] theorem enterReading_laws (g : ArrayGroup) (l : Lane) (stripe : Nat) (s : State) :
    (ChannelsLaw s.chans → ChannelsLaw (enterReading g l stripe s).chans) := by
  intro h
  unfold enterReading
  exact foldl_law (P := fun t => ChannelsLaw t.chans) (fun t x ht => by simp [ht]) _ h

@[simp] theorem compose_laws (g : ArrayGroup) (l : Lane) (stripe : Nat) (s : State) :
    (ChannelsLaw s.chans → ChannelsLaw (compose g l stripe s).chans) := by
  intro h
  unfold compose
  try dsimp only
  (repeat' split) <;> first | (simp (maxDischargeDepth := 30) [h]; done) | exact h

@[simp] theorem composeIfReady_laws (g : ArrayGroup) (l : Lane) (stripe : Nat) (s : State) :
    (ChannelsLaw s.chans → ChannelsLaw (composeIfReady g l stripe s).chans) := by
  intro h
  unfold composeIfReady
  try dsimp only
  (repeat' split) <;> first | (simp (maxDischargeDepth := 30) [h]; done) | exact h

@[simp] theorem retryRead_laws (g : ArrayGroup) (l : Lane) (stripe : Nat) (c : Chan) (s : State) :
    (NoticeLaw s.link → NoticeLaw (retryRead g l stripe c s).link) ∧
    (ChannelsLaw s.chans → ChannelsLaw (retryRead g l stripe c s).chans) := by
  refine ⟨fun h => ?_, fun h => ?_⟩ <;> unfold retryRead <;> (try dsimp only) <;> (repeat' split) <;>
    first | (simp (maxDischargeDepth := 30) [h]; done) | exact h

@[simp] theorem takeLaneRead_laws (g : ArrayGroup) (l : Lane) (stripe : Nat) (c : Chan) (e : EndStatus) (s : State) :
    (NoticeLaw s.link → NoticeLaw (takeLaneRead g l stripe c e s).link) ∧
    (ChannelsLaw s.chans → ChannelsLaw (takeLaneRead g l stripe c e s).chans) := by
  refine ⟨fun h => ?_, fun h => ?_⟩ <;> unfold takeLaneRead <;> (try dsimp only) <;> (repeat' split) <;>
    first | (simp (maxDischargeDepth := 30) [h]; done) | exact h

@[simp] theorem recordLostRange_laws (g : ArrayGroup) (stripe : Nat) (s : State) (x : LostRange) :
    (NoticeLaw s.link → NoticeLaw (recordLostRange g stripe s x).link) ∧
    (LossLaw s.losses → LossLaw (recordLostRange g stripe s x).losses) ∧
    (PoolLaw s.pool → PoolLaw (recordLostRange g stripe s x).pool) ∧
    (ChannelsLaw s.chans → ChannelsLaw (recordLostRange g stripe s x).chans) := by
  refine ⟨fun h => ?_, fun h => ?_, fun h => ?_, fun h => ?_⟩ <;> unfold recordLostRange <;> (try dsimp only) <;> (repeat' split) <;>
    first | (simp (maxDischargeDepth := 30) [h]; done) | exact h

@[simp] theorem finishStripe_laws (g : ArrayGroup) (l : Lane) (x : Nat) (stripe : Nat) (s : State) :
    (NoticeLaw s.link → NoticeLaw (finishStripe g l x stripe s).link) ∧
    (AheadLaw s.table → AheadLaw (finishStripe g l x stripe s).table) ∧
    (LossLaw s.losses → LossLaw (finishStripe g l x stripe s).losses) ∧
    (PoolLaw s.pool → PoolLaw (finishStripe g l x stripe s).pool) ∧
    (LockLaw s.locks → LockLaw (finishStripe g l x stripe s).locks) ∧
    (ChannelsLaw s.chans → ChannelsLaw (finishStripe g l x stripe s).chans) := by
  have a := fun h => foldl_law (P := fun t => NoticeLaw t.link) (f := recordLostRange g stripe) (fun t x ht => by simp [ht])
    s.lanes[l].lost (s := s) h
  have b := fun h => foldl_law (P := fun t => AheadLaw t.table) (f := recordLostRange g stripe) (fun t x ht => by simpa using ht)
    s.lanes[l].lost (s := s) h
  have c := fun h => foldl_law (P := fun t => LossLaw t.losses) (f := recordLostRange g stripe) (fun t x ht => by simp [ht])
    s.lanes[l].lost (s := s) h
  have d := fun h => foldl_law (P := fun t => PoolLaw t.pool) (f := recordLostRange g stripe) (fun t x ht => by simp [ht])
    s.lanes[l].lost (s := s) h
  have e := fun h => foldl_law (P := fun t => LockLaw t.locks) (f := recordLostRange g stripe) (fun t x ht => by simpa using ht)
    s.lanes[l].lost (s := s) h
  have f := fun h => foldl_law (P := fun t => ChannelsLaw t.chans) (f := recordLostRange g stripe) (fun t x ht => by simp [ht])
    s.lanes[l].lost (s := s) h
  refine ⟨fun h => ?_, fun h => ?_, fun h => ?_, fun h => ?_, fun h => ?_, fun h => ?_⟩ <;> unfold finishStripe <;> dsimp only
  · have := a h
    simp (maxDischargeDepth := 30) only [boundary_laws, releaseLock_frame, releaseBuffers_frame, raiseEvent_laws, advanceCursor_laws, this]
  · have := b h
    simp (maxDischargeDepth := 30) only [boundary_laws, releaseLock_frame, releaseBuffers_frame, raiseEvent_frame, advanceCursor_laws, this]
  · have := c h
    simp only [boundary_frame, releaseLock_frame, releaseBuffers_frame, raiseEvent_frame, advanceCursor_frame, this]
  · have := d h
    simp (maxDischargeDepth := 30) only [boundary_laws, releaseLock_frame, releaseBuffers_laws, raiseEvent_frame, advanceCursor_frame, this]
  · have := e h
    simp (maxDischargeDepth := 30) only [boundary_laws, releaseLock_laws, releaseBuffers_frame, raiseEvent_frame, advanceCursor_frame, this]
  · have := f h
    simp (maxDischargeDepth := 30) only [boundary_laws, releaseLock_frame, releaseBuffers_frame, raiseEvent_frame, advanceCursor_frame, this]

@[simp] theorem takeLaneWrite_laws (g : ArrayGroup) (l : Lane) (x : Nat) (stripe : Nat) (e : EndStatus) (s : State) :
    (NoticeLaw s.link → NoticeLaw (takeLaneWrite g l x stripe e s).link) ∧
    (AheadLaw s.table → AheadLaw (takeLaneWrite g l x stripe e s).table) ∧
    (LossLaw s.losses → LossLaw (takeLaneWrite g l x stripe e s).losses) ∧
    (PoolLaw s.pool → PoolLaw (takeLaneWrite g l x stripe e s).pool) ∧
    (LockLaw s.locks → LockLaw (takeLaneWrite g l x stripe e s).locks) ∧
    (ChannelsLaw s.chans → ChannelsLaw (takeLaneWrite g l x stripe e s).chans) := by
  refine ⟨fun h => ?_, fun h => ?_, fun h => ?_, fun h => ?_, fun h => ?_, fun h => ?_⟩ <;> unfold takeLaneWrite <;>
    (try dsimp only) <;> (repeat' split) <;>
    first | (simp (maxDischargeDepth := 30) [h]; done) | exact h

@[simp] theorem enterDraining_laws (tag : Tag) (s : State) :
    (NoticeLaw s.link → NoticeLaw (enterDraining tag s).link) ∧ (AheadLaw s.table → AheadLaw (enterDraining tag s).table) ∧
    (PoolLaw s.pool → PoolLaw (enterDraining tag s).pool) ∧ (LockLaw s.locks → LockLaw (enterDraining tag s).locks) ∧
    (ChannelsLaw s.chans → ChannelsLaw (enterDraining tag s).chans) := by
  refine ⟨fun h => ?_, fun h => ?_, fun h => ?_, fun h => ?_, fun h => ?_⟩ <;> unfold enterDraining <;>
    (try dsimp only) <;> (repeat' split) <;>
    first | (simp (maxDischargeDepth := 30) [h]; done) | exact h

@[simp] theorem enterHalted_laws (s : State) :
    (NoticeLaw s.link → NoticeLaw (enterHalted s).link) ∧ (AheadLaw s.table → AheadLaw (enterHalted s).table) ∧
    (PoolLaw s.pool → PoolLaw (enterHalted s).pool) ∧ (LockLaw s.locks → LockLaw (enterHalted s).locks) ∧
    (ChannelsLaw s.chans → ChannelsLaw (enterHalted s).chans) := by
  refine ⟨fun h => ?_, fun h => ?_, fun h => ?_, fun h => ?_, fun h => ?_⟩ <;> unfold enterHalted <;>
    (try dsimp only) <;> (repeat' split) <;>
    first | (simp (maxDischargeDepth := 30) [h]; done) | exact h

@[simp] theorem enterTargetFailed_laws (s : State) :
    (NoticeLaw s.link → NoticeLaw (enterTargetFailed s).link) ∧ (AheadLaw s.table → AheadLaw (enterTargetFailed s).table) ∧
    (PoolLaw s.pool → PoolLaw (enterTargetFailed s).pool) ∧ (LockLaw s.locks → LockLaw (enterTargetFailed s).locks) ∧
    (ChannelsLaw s.chans → ChannelsLaw (enterTargetFailed s).chans) := by
  refine ⟨fun h => ?_, fun h => ?_, fun h => ?_, fun h => ?_, fun h => ?_⟩ <;> unfold enterTargetFailed <;>
    (try dsimp only) <;> (repeat' split) <;>
    first | (simp (maxDischargeDepth := 30) [h]; done) | exact h

@[simp] theorem takeTold_laws (t : Told) (s : State) :
    (NoticeLaw s.link → NoticeLaw (takeTold t s).link) ∧ (AheadLaw s.table → AheadLaw (takeTold t s).table) ∧
    (PoolLaw s.pool → PoolLaw (takeTold t s).pool) ∧ (LockLaw s.locks → LockLaw (takeTold t s).locks) ∧
    (ChannelsLaw s.chans → ChannelsLaw (takeTold t s).chans) := by
  refine ⟨fun h => ?_, fun h => ?_, fun h => ?_, fun h => ?_, fun h => ?_⟩ <;> unfold takeTold <;>
    (try dsimp only) <;> (repeat' split) <;>
    first | (simp (maxDischargeDepth := 30) [h]; done) | exact h

@[simp] theorem judgeDrain_laws (s : State) :
    (NoticeLaw s.link → NoticeLaw (judgeDrain s).link) ∧ (AheadLaw s.table → AheadLaw (judgeDrain s).table) ∧
    (LossLaw s.losses → LossLaw (judgeDrain s).losses) ∧ (PoolLaw s.pool → PoolLaw (judgeDrain s).pool) ∧
    (ChannelsLaw s.chans → ChannelsLaw (judgeDrain s).chans) := by
  refine ⟨fun h => ?_, fun h => ?_, fun h => ?_, fun h => ?_, fun h => ?_⟩ <;> unfold judgeDrain <;>
    (try dsimp only) <;> (repeat' split) <;>
    first | (simp (maxDischargeDepth := 30) [h]; done) | exact h

@[simp] theorem endPausing_laws (st : SessionState) (s : State) :
    (NoticeLaw s.link → NoticeLaw (endPausing st s).link) := by
  intro h
  unfold endPausing
  try dsimp only
  (repeat' split) <;> first | (simp (maxDischargeDepth := 30) [h]; done) | exact h

@[simp] theorem reportWritten_laws (w : CkptWrite) (s : State) :
    (NoticeLaw s.link → NoticeLaw (reportWritten w s).link) ∧ (AheadLaw s.table → AheadLaw (reportWritten w s).table) ∧
    (LossLaw s.losses → LossLaw (reportWritten w s).losses) ∧ (PoolLaw s.pool → PoolLaw (reportWritten w s).pool) ∧
    (ChannelsLaw s.chans → ChannelsLaw (reportWritten w s).chans) := by
  refine ⟨fun h => ?_, fun h => ?_, fun h => ?_, fun h => ?_, fun h => ?_⟩ <;> unfold reportWritten <;>
    (try dsimp only) <;> (repeat' split) <;>
    first | (simp (maxDischargeDepth := 30) [h]; done) | exact h

@[simp] theorem followWrite_laws (s : State) :
    (NoticeLaw s.link → NoticeLaw (followWrite s).link) ∧ (PoolLaw s.pool → PoolLaw (followWrite s).pool) ∧
    (ChannelsLaw s.chans → ChannelsLaw (followWrite s).chans) := by
  refine ⟨fun h => ?_, fun h => ?_, fun h => ?_⟩ <;> unfold followWrite <;> (try dsimp only) <;> (repeat' split) <;>
    first | (simp (maxDischargeDepth := 30) [h]; done) | exact h

@[simp] theorem writeDone_laws (w : CkptWrite) (s : State) :
    (NoticeLaw s.link → NoticeLaw (writeDone w s).link) ∧ (AheadLaw s.table → AheadLaw (writeDone w s).table) ∧
    (LossLaw s.losses → LossLaw (writeDone w s).losses) ∧ (PoolLaw s.pool → PoolLaw (writeDone w s).pool) ∧
    (ChannelsLaw s.chans → ChannelsLaw (writeDone w s).chans) := by
  refine ⟨fun h => ?_, fun h => ?_, fun h => ?_, fun h => ?_, fun h => ?_⟩ <;> unfold writeDone <;>
    (try dsimp only) <;> (repeat' split) <;>
    first | (simp (maxDischargeDepth := 30) [h]; done) | exact h

@[simp] theorem reportUnlessEnded_laws (g : ArrayGroup) (e : EndStatus) (s : State) :
    (NoticeLaw s.link → NoticeLaw (reportUnlessEnded g e s).link) ∧ (PoolLaw s.pool → PoolLaw (reportUnlessEnded g e s).pool) ∧
    (ChannelsLaw s.chans → ChannelsLaw (reportUnlessEnded g e s).chans) := by
  refine ⟨fun h => ?_, fun h => ?_, fun h => ?_⟩ <;> unfold reportUnlessEnded <;> (try dsimp only) <;> (repeat' split) <;>
    first | (simp (maxDischargeDepth := 30) [h]; done) | exact h

@[simp] theorem writeFailed_laws (g : ArrayGroup) (w : CkptWrite) (e : EndStatus) (s : State) :
    (NoticeLaw s.link → NoticeLaw (writeFailed g w e s).link) ∧ (AheadLaw s.table → AheadLaw (writeFailed g w e s).table) ∧
    (LossLaw s.losses → LossLaw (writeFailed g w e s).losses) ∧ (PoolLaw s.pool → PoolLaw (writeFailed g w e s).pool) ∧
    (ChannelsLaw s.chans → ChannelsLaw (writeFailed g w e s).chans) := by
  refine ⟨fun h => ?_, fun h => ?_, fun h => ?_, fun h => ?_, fun h => ?_⟩ <;> unfold writeFailed <;>
    (try dsimp only) <;> (repeat' split) <;>
    first | (simp (maxDischargeDepth := 30) [h]; done) | exact h

@[simp] theorem takeWriteEnding_laws (g : ArrayGroup) (w : CkptWrite) (e : EndStatus) (s : State) :
    (NoticeLaw s.link → NoticeLaw (takeWriteEnding g w e s).link) ∧ (AheadLaw s.table → AheadLaw (takeWriteEnding g w e s).table) ∧
    (LossLaw s.losses → LossLaw (takeWriteEnding g w e s).losses) ∧ (PoolLaw s.pool → PoolLaw (takeWriteEnding g w e s).pool) ∧
    (ChannelsLaw s.chans → ChannelsLaw (takeWriteEnding g w e s).chans) := by
  refine ⟨fun h => ?_, fun h => ?_, fun h => ?_, fun h => ?_, fun h => ?_⟩ <;> unfold takeWriteEnding <;>
    (try dsimp only) <;> (repeat' split) <;>
    first | (simp (maxDischargeDepth := 30) [h]; done) | exact h

@[simp] theorem readSlot_laws (g : ArrayGroup) (slot : CkptSlot) (s : State) :
    (ChannelsLaw s.chans → ChannelsLaw (readSlot g slot s).chans) := by
  intro h
  unfold readSlot
  try dsimp only
  (repeat' split) <;> first | (simp (maxDischargeDepth := 30) [h]; done) | exact h

@[simp] theorem restoreEnds_laws (a : Answer) (r : Result) (s : State) :
    (NoticeLaw s.link → NoticeLaw (restoreEnds a r s).link) ∧ (AheadLaw s.table → AheadLaw (restoreEnds a r s).table) ∧
    (LossLaw s.losses → LossLaw (restoreEnds a r s).losses) ∧ (ChannelsLaw s.chans → ChannelsLaw (restoreEnds a r s).chans) := by
  refine ⟨fun h => ?_, fun h => ?_, fun h => ?_, fun h => ?_⟩ <;> unfold restoreEnds <;> (try dsimp only) <;> (repeat' split) <;>
    first | (simp (maxDischargeDepth := 30) [h]; done) | exact h

@[simp] theorem checkRestoredLink_laws (c : Chan) (s : State) :
    (NoticeLaw s.link → NoticeLaw (checkRestoredLink c s).link) ∧ (PoolLaw s.pool → PoolLaw (checkRestoredLink c s).pool) ∧
    (ChannelsLaw s.chans → ChannelsLaw (checkRestoredLink c s).chans) := by
  refine ⟨fun h => ?_, fun h => ?_, fun h => ?_⟩ <;> unfold checkRestoredLink <;> (try dsimp only) <;> (repeat' split) <;>
    first | (simp (maxDischargeDepth := 30) [h]; done) | exact h

@[simp] theorem checkRestoredLinks_laws (s : State) :
    (NoticeLaw s.link → NoticeLaw (checkRestoredLinks s).link) ∧ (PoolLaw s.pool → PoolLaw (checkRestoredLinks s).pool) ∧
    (ChannelsLaw s.chans → ChannelsLaw (checkRestoredLinks s).chans) :=
  ⟨fun h => foldl_law (P := fun t => NoticeLaw t.link) (fun t x ht => by simp [ht]) _ h,
    fun h => foldl_law (P := fun t => PoolLaw t.pool) (fun t x ht => by simp [ht]) _ h,
    fun h => foldl_law (P := fun t => ChannelsLaw t.chans) (fun t x ht => by simp [ht]) _ h⟩

@[simp] theorem loadRecord_laws (g : ArrayGroup) (slot : CkptSlot) (spareRole : Role) (bs : List Block) (s : State) :
    AheadLaw (loadRecord g slot spareRole bs s).table ∧
    (wellFormedRecord bs = true → LossLaw (loadRecord g slot spareRole bs s).losses) ∧
    (ChannelsLaw s.chans → ChannelsLaw (loadRecord g slot spareRole bs s).chans) := by
  refine ⟨?_, fun h => ?_, fun h => ?_⟩
  · simp [loadRecord, giveRoles, AheadLaw]
  · exact LossLaw.ofRecord h
  · exact (giveRoles_laws _ _ _) h

@[simp] theorem restoreTo_laws
    (g : ArrayGroup) (slot : CkptSlot) (m : Mark) (st : SessionState) (spareRole : Role) (bs : List Block) (s : State) :
    (NoticeLaw s.link → NoticeLaw (restoreTo g slot m st spareRole bs s).link) ∧
    AheadLaw (restoreTo g slot m st spareRole bs s).table ∧
    (wellFormedRecord bs = true → LossLaw (restoreTo g slot m st spareRole bs s).losses) ∧
    (PoolLaw s.pool → PoolLaw (restoreTo g slot m st spareRole bs s).pool) ∧
    (ChannelsLaw s.chans → ChannelsLaw (restoreTo g slot m st spareRole bs s).chans) := by
  have e : restoreTo g slot m st spareRole bs s = checkRestoredLinks (evalHold (loadRecord g slot spareRole bs
      (setSession st (answerLong .done (restoreResult slot m bs (loadedExtents s.plan.windows bs)) s)))) := by
    unfold restoreTo
    rfl
  rw [e]
  refine ⟨fun h => ?_, ?_, fun h => ?_, fun h => ?_, fun h => ?_⟩
  · refine (checkRestoredLinks_laws _).1 ((evalHold_laws _).1 ?_)
    simp only [loadRecord_frame]
    exact setSession_laws _ _ (answerLong_laws _ _ _ h)
  · simp only [checkRestoredLinks_frame]
    exact (evalHold_laws _).2 (loadRecord_laws _ _ _ _ _).1
  · simp only [checkRestoredLinks_frame, evalHold_frame, loadRecord_laws, h]
  · simp only [checkRestoredLinks_laws, evalHold_frame, loadRecord_frame, setSession_frame, answerLong_frame, h]
  · simp only [checkRestoredLinks_laws, evalHold_frame, loadRecord_laws, setSession_frame, answerLong_frame, h]

/-- A record whose fields do not lie in their ranges is not valid (R154). -/
theorem judgeRecord_invalid {g : ArrayGroup} {bs : List Block} (h : wellFormedRecord bs = false) : (judgeRecord g bs).valid = false := by
  unfold judgeRecord
  rw [h]
  generalize ((List.range 28).map fun i => byteAt bs (5 + i)) = u
  generalize numAt bs 36 4 = w
  generalize checkRight bs = c
  cases c <;> simp [SlotVerdict.valid]

/-- A valid record is well-formed (R154). -/
theorem wellFormed_of_valid {g : ArrayGroup} {bs : List Block} (h : (judgeRecord g bs).valid = true) : wellFormedRecord bs = true := by
  cases hc : wellFormedRecord bs
  · exact absurd (h.symm.trans (judgeRecord_invalid hc)) (by decide)
  · rfl

/-- A chosen record is one of the two that are valid (R164). -/
theorem chooseValid_valid {x y n : Bool} {a b bs : List Block} {slot : CkptSlot} (h : chooseValid x y n a b = some (slot, bs)) :
    x = true ∧ bs = a ∨ y = true ∧ bs = b := by
  cases x <;> cases y <;> cases n <;> simp [chooseValid] at h <;> simp [h]

/-- A chosen record is well-formed (R154, R164). -/
theorem chooseRecord_wellFormed {g : ArrayGroup} {a b bs : List Block} {slot : CkptSlot}
    (h : chooseRecord g a b = some (slot, bs)) : wellFormedRecord bs = true := by
  rcases chooseValid_valid h with ⟨hv, rfl⟩ | ⟨hv, rfl⟩ <;> exact wellFormed_of_valid hv

@[simp] theorem restoreByMark_laws (g : ArrayGroup) (slot : CkptSlot) (bs : List Block) (m : Option Mark) (s : State)
    (hw : wellFormedRecord bs = true) :
    (NoticeLaw s.link → NoticeLaw (restoreByMark g slot bs m s).link) ∧
    (AheadLaw s.table → AheadLaw (restoreByMark g slot bs m s).table) ∧
    (LossLaw s.losses → LossLaw (restoreByMark g slot bs m s).losses) ∧
    (PoolLaw s.pool → PoolLaw (restoreByMark g slot bs m s).pool) ∧
    (ChannelsLaw s.chans → ChannelsLaw (restoreByMark g slot bs m s).chans) := by
  refine ⟨fun h => ?_, fun h => ?_, fun h => ?_, fun h => ?_, fun h => ?_⟩ <;> unfold restoreByMark <;> split <;>
    simp only [restoreEnds_laws, restoreEnds_frame, restoreTo_laws, h, hw]

@[simp] theorem restoreRefused_laws (a b : SlotVerdict) (s : State) :
    (NoticeLaw s.link → NoticeLaw (restoreRefused a b s).link) ∧ (AheadLaw s.table → AheadLaw (restoreRefused a b s).table) ∧
    (LossLaw s.losses → LossLaw (restoreRefused a b s).losses) ∧
    (PoolLaw s.pool → PoolLaw (restoreRefused a b s).pool) ∧ (ChannelsLaw s.chans → ChannelsLaw (restoreRefused a b s).chans) := by
  refine ⟨fun h => ?_, fun h => ?_, fun h => ?_, fun h => ?_, fun h => ?_⟩ <;> unfold restoreRefused <;> split <;>
    simp only [restoreEnds_laws, restoreEnds_frame, h]

@[simp] theorem restoreChosen_laws (g : ArrayGroup) (a b : List Block) (chosen : Option (CkptSlot × List Block)) (s : State)
    (hw : ∀ slot bs, chosen = some (slot, bs) → wellFormedRecord bs = true) :
    (NoticeLaw s.link → NoticeLaw (restoreChosen g a b chosen s).link) ∧
    (AheadLaw s.table → AheadLaw (restoreChosen g a b chosen s).table) ∧
    (LossLaw s.losses → LossLaw (restoreChosen g a b chosen s).losses) ∧
    (PoolLaw s.pool → PoolLaw (restoreChosen g a b chosen s).pool) ∧
    (ChannelsLaw s.chans → ChannelsLaw (restoreChosen g a b chosen s).chans) := by
  refine ⟨fun h => ?_, fun h => ?_, fun h => ?_, fun h => ?_, fun h => ?_⟩ <;> unfold restoreChosen <;> split
  all_goals first
    | simp only [restoreRefused_laws, h]; done
    | simp only [restoreByMark_laws _ _ _ _ _ (hw _ _ rfl), h]

@[simp] theorem reportRecords_laws (g : ArrayGroup) (a b : List Block) (s : State) :
    (NoticeLaw s.link → NoticeLaw (reportRecords g a b s).link) ∧ (AheadLaw s.table → AheadLaw (reportRecords g a b s).table) ∧
    (LossLaw s.losses → LossLaw (reportRecords g a b s).losses) ∧
    (PoolLaw s.pool → PoolLaw (reportRecords g a b s).pool) ∧ (ChannelsLaw s.chans → ChannelsLaw (reportRecords g a b s).chans) := by
  refine ⟨fun h => ?_, fun h => ?_, fun h => ?_, fun h => ?_, fun h => ?_⟩ <;> unfold reportRecords <;> split
  all_goals first
    | simp only [restoreEnds_laws, restoreEnds_frame, h]; done
    | simp only [restoreChosen_laws g a b _ s fun _ _ => chooseRecord_wellFormed, h]

@[simp] theorem slotRead_laws (g : ArrayGroup) (r : CkptReads) (bs : List Block) (s : State) :
    (NoticeLaw s.link → NoticeLaw (slotRead g r bs s).link) ∧ (AheadLaw s.table → AheadLaw (slotRead g r bs s).table) ∧
    (LossLaw s.losses → LossLaw (slotRead g r bs s).losses) ∧ (PoolLaw s.pool → PoolLaw (slotRead g r bs s).pool) ∧
    (ChannelsLaw s.chans → ChannelsLaw (slotRead g r bs s).chans) := by
  refine ⟨fun h => ?_, fun h => ?_, fun h => ?_, fun h => ?_, fun h => ?_⟩ <;> unfold slotRead <;>
    (try dsimp only) <;> (repeat' split) <;>
    first | (simp (maxDischargeDepth := 30) [h]; done) | exact h

@[simp] theorem slotFailed_laws (g : ArrayGroup) (e : EndStatus) (s : State) :
    (NoticeLaw s.link → NoticeLaw (slotFailed g e s).link) ∧ (AheadLaw s.table → AheadLaw (slotFailed g e s).table) ∧
    (LossLaw s.losses → LossLaw (slotFailed g e s).losses) ∧ (PoolLaw s.pool → PoolLaw (slotFailed g e s).pool) ∧
    (ChannelsLaw s.chans → ChannelsLaw (slotFailed g e s).chans) := by
  refine ⟨fun h => ?_, fun h => ?_, fun h => ?_, fun h => ?_, fun h => ?_⟩ <;> unfold slotFailed <;>
    (try dsimp only) <;> (repeat' split) <;>
    first | (simp (maxDischargeDepth := 30) [h]; done) | exact h

@[simp] theorem retrySlot_laws (g : ArrayGroup) (r : CkptReads) (s : State) :
    (NoticeLaw s.link → NoticeLaw (retrySlot g r s).link) ∧ (ChannelsLaw s.chans → ChannelsLaw (retrySlot g r s).chans) := by
  refine ⟨fun h => ?_, fun h => ?_⟩ <;> unfold retrySlot <;> (try dsimp only) <;> (repeat' split) <;>
    first | (simp (maxDischargeDepth := 30) [h]; done) | exact h

@[simp] theorem takeReadEnding_laws (g : ArrayGroup) (r : CkptReads) (e : EndStatus) (s : State) :
    (NoticeLaw s.link → NoticeLaw (takeReadEnding g r e s).link) ∧ (AheadLaw s.table → AheadLaw (takeReadEnding g r e s).table) ∧
    (LossLaw s.losses → LossLaw (takeReadEnding g r e s).losses) ∧ (PoolLaw s.pool → PoolLaw (takeReadEnding g r e s).pool) ∧
    (ChannelsLaw s.chans → ChannelsLaw (takeReadEnding g r e s).chans) := by
  refine ⟨fun h => ?_, fun h => ?_, fun h => ?_, fun h => ?_, fun h => ?_⟩ <;> unfold takeReadEnding <;>
    (try dsimp only) <;> (repeat' split) <;>
    first | (simp (maxDischargeDepth := 30) [h]; done) | exact h

end Sys2Proof.Machine
end

