-- ==== Sys2Proof/Laws/KeepsRows.lean ====
section
/-! SUPPORT. The laws of the tables under the operations of the foreground engine, the requests and the rows. -/

namespace Sys2Proof.Machine
set_option Elab.async false
set_option linter.unusedTactic false
set_option linter.unreachableTactic false
set_option linter.unnecessarySeqFocus false
open Sys2Proof

@[simp] theorem beginPhase_laws (g : ArrayGroup) (e : FgEntry) (stage : FgStage) (p : PhasePlan) (write : Bool) (s : State) :
    (ChannelsLaw s.chans → ChannelsLaw (beginPhase g e stage p write s).chans) :=
  fun h => foldl_law (P := fun t => ChannelsLaw t.chans) (fun t x ht => by simp [ht]) _ h

@[simp] theorem handFgReply_laws (e : FgEntry) (a : Answer) (r : Result) (s : State) :
    (NoticeLaw s.link → NoticeLaw (handFgReply e a r s).link) := by
  intro h
  unfold handFgReply
  try dsimp only
  (repeat' split) <;> first | (simp (maxDischargeDepth := 30) [h]; done) | exact h

@[simp] theorem endFg_laws (e : FgEntry) (a : Answer) (r : Result) (s : State) :
    (NoticeLaw s.link → NoticeLaw (endFg e a r s).link) ∧ (LossLaw s.losses → LossLaw (endFg e a r s).losses) ∧
    (PoolLaw s.pool → PoolLaw (endFg e a r s).pool) ∧ (LockLaw s.locks → LockLaw (endFg e a r s).locks) := by
  refine ⟨fun h => ?_, fun h => ?_, fun h => ?_, fun h => ?_⟩ <;> unfold endFg <;> (try dsimp only) <;> (repeat' split) <;>
    first | (simp (maxDischargeDepth := 30) [h]; done) | exact h

@[simp] theorem endRead_laws (g : ArrayGroup) (e : FgEntry) (s : State) :
    (NoticeLaw s.link → NoticeLaw (endRead g e s).link) ∧ (LossLaw s.losses → LossLaw (endRead g e s).losses) ∧
    (PoolLaw s.pool → PoolLaw (endRead g e s).pool) ∧ (LockLaw s.locks → LockLaw (endRead g e s).locks) := by
  refine ⟨fun h => ?_, fun h => ?_, fun h => ?_, fun h => ?_⟩ <;> unfold endRead <;> (try dsimp only) <;> (repeat' split) <;>
    first | (simp (maxDischargeDepth := 30) [h]; done) | exact h

@[simp] theorem planRead_laws (g : ArrayGroup) (e : FgEntry) (s : State) :
    (NoticeLaw s.link → NoticeLaw (planRead g e s).link) ∧ (LossLaw s.losses → LossLaw (planRead g e s).losses) ∧
    (PoolLaw s.pool → PoolLaw (planRead g e s).pool) ∧ (LockLaw s.locks → LockLaw (planRead g e s).locks) ∧
    (ChannelsLaw s.chans → ChannelsLaw (planRead g e s).chans) := by
  refine ⟨fun h => ?_, fun h => ?_, fun h => ?_, fun h => ?_, fun h => ?_⟩ <;> unfold planRead <;>
    (try dsimp only) <;> (repeat' split) <;>
    first | (simp (maxDischargeDepth := 30) [h]; done) | exact h

@[simp] theorem endReconstruct_laws (g : ArrayGroup) (e : FgEntry) (s : State) :
    (NoticeLaw s.link → NoticeLaw (endReconstruct g e s).link) ∧ (LossLaw s.losses → LossLaw (endReconstruct g e s).losses) ∧
    (PoolLaw s.pool → PoolLaw (endReconstruct g e s).pool) ∧ (LockLaw s.locks → LockLaw (endReconstruct g e s).locks) := by
  refine ⟨fun h => ?_, fun h => ?_, fun h => ?_, fun h => ?_⟩ <;> unfold endReconstruct <;> (try dsimp only) <;> (repeat' split) <;>
    first | (simp (maxDischargeDepth := 30) [h]; done) | exact h

@[simp] theorem planReconstruct_laws (g : ArrayGroup) (e : FgEntry) (wanted : List (Nat × Nat)) (s : State) :
    (NoticeLaw s.link → NoticeLaw (planReconstruct g e wanted s).link) ∧
    (LossLaw s.losses → LossLaw (planReconstruct g e wanted s).losses) ∧
    (PoolLaw s.pool → PoolLaw (planReconstruct g e wanted s).pool) ∧
    (LockLaw s.locks → LockLaw (planReconstruct g e wanted s).locks) ∧
    (ChannelsLaw s.chans → ChannelsLaw (planReconstruct g e wanted s).chans) := by
  refine ⟨fun h => ?_, fun h => ?_, fun h => ?_, fun h => ?_, fun h => ?_⟩ <;> unfold planReconstruct <;>
    (try dsimp only) <;> (repeat' split) <;>
    first | (simp (maxDischargeDepth := 30) [h]; done) | exact h

@[simp] theorem endReadPhase_laws (g : ArrayGroup) (e : FgEntry) (s : State) :
    (NoticeLaw s.link → NoticeLaw (endReadPhase g e s).link) ∧ (LossLaw s.losses → LossLaw (endReadPhase g e s).losses) ∧
    (PoolLaw s.pool → PoolLaw (endReadPhase g e s).pool) ∧ (LockLaw s.locks → LockLaw (endReadPhase g e s).locks) ∧
    (ChannelsLaw s.chans → ChannelsLaw (endReadPhase g e s).chans) := by
  refine ⟨fun h => ?_, fun h => ?_, fun h => ?_, fun h => ?_, fun h => ?_⟩ <;> unfold endReadPhase <;>
    (try dsimp only) <;> (repeat' split) <;>
    first | (simp (maxDischargeDepth := 30) [h]; done) | exact h

@[simp] theorem planFullWrite_laws (g : ArrayGroup) (e : FgEntry) (p : PhasePlan) (s : State) :
    (ChannelsLaw s.chans → ChannelsLaw (planFullWrite g e p s).chans) := by
  intro h
  unfold planFullWrite
  try dsimp only
  (repeat' split) <;> first | (simp (maxDischargeDepth := 30) [h]; done) | exact h

@[simp] theorem planWrite_laws (g : ArrayGroup) (e : FgEntry) (s : State) :
    (NoticeLaw s.link → NoticeLaw (planWrite g e s).link) ∧ (LossLaw s.losses → LossLaw (planWrite g e s).losses) ∧
    (PoolLaw s.pool → PoolLaw (planWrite g e s).pool) ∧ (LockLaw s.locks → LockLaw (planWrite g e s).locks) ∧
    (ChannelsLaw s.chans → ChannelsLaw (planWrite g e s).chans) := by
  refine ⟨fun h => ?_, fun h => ?_, fun h => ?_, fun h => ?_, fun h => ?_⟩ <;> unfold planWrite <;>
    (try dsimp only) <;> (repeat' split) <;>
    first | (simp (maxDischargeDepth := 30) [h]; done) | exact h

@[simp] theorem endWriteRead_laws (g : ArrayGroup) (e : FgEntry) (s : State) :
    (NoticeLaw s.link → NoticeLaw (endWriteRead g e s).link) ∧ (LossLaw s.losses → LossLaw (endWriteRead g e s).losses) ∧
    (PoolLaw s.pool → PoolLaw (endWriteRead g e s).pool) ∧ (LockLaw s.locks → LockLaw (endWriteRead g e s).locks) ∧
    (ChannelsLaw s.chans → ChannelsLaw (endWriteRead g e s).chans) := by
  refine ⟨fun h => ?_, fun h => ?_, fun h => ?_, fun h => ?_, fun h => ?_⟩ <;> unfold endWriteRead <;>
    (try dsimp only) <;> (repeat' split) <;>
    first | (simp (maxDischargeDepth := 30) [h]; done) | exact h

@[simp] theorem planFirst_laws (g : ArrayGroup) (e : FgEntry) (s : State) :
    (NoticeLaw s.link → NoticeLaw (planFirst g e s).link) ∧ (LossLaw s.losses → LossLaw (planFirst g e s).losses) ∧
    (PoolLaw s.pool → PoolLaw (planFirst g e s).pool) ∧ (LockLaw s.locks → LockLaw (planFirst g e s).locks) ∧
    (ChannelsLaw s.chans → ChannelsLaw (planFirst g e s).chans) := by
  refine ⟨fun h => ?_, fun h => ?_, fun h => ?_, fun h => ?_, fun h => ?_⟩ <;> unfold planFirst <;>
    (try dsimp only) <;> (repeat' split) <;>
    first | (simp (maxDischargeDepth := 30) [h]; done) | exact h

@[simp] theorem judgeReads_laws (g : ArrayGroup) (e : FgEntry) (s : State) :
    (NoticeLaw s.link → NoticeLaw (judgeReads g e s).link) ∧ (LossLaw s.losses → LossLaw (judgeReads g e s).losses) ∧
    (PoolLaw s.pool → PoolLaw (judgeReads g e s).pool) ∧ (LockLaw s.locks → LockLaw (judgeReads g e s).locks) ∧
    (ChannelsLaw s.chans → ChannelsLaw (judgeReads g e s).chans) := by
  refine ⟨fun h => ?_, fun h => ?_, fun h => ?_, fun h => ?_, fun h => ?_⟩ <;> unfold judgeReads <;>
    (try dsimp only) <;> (repeat' split) <;>
    first | (simp (maxDischargeDepth := 30) [h]; done) | exact h

@[simp] theorem endReads_laws (g : ArrayGroup) (e : FgEntry) (s : State) :
    (NoticeLaw s.link → NoticeLaw (endReads g e s).link) ∧ (LossLaw s.losses → LossLaw (endReads g e s).losses) ∧
    (PoolLaw s.pool → PoolLaw (endReads g e s).pool) ∧ (LockLaw s.locks → LockLaw (endReads g e s).locks) ∧
    (ChannelsLaw s.chans → ChannelsLaw (endReads g e s).chans) := judgeReads_laws _ _ _

@[simp] theorem closeRead_laws (g : ArrayGroup) (e : FgEntry) (q : PhaseCmd) (o : CmdOutcome) (bs : List (Option Block)) (s : State) :
    (NoticeLaw s.link → NoticeLaw (closeRead g e q o bs s).link) ∧ (LossLaw s.losses → LossLaw (closeRead g e q o bs s).losses) ∧
    (PoolLaw s.pool → PoolLaw (closeRead g e q o bs s).pool) ∧ (LockLaw s.locks → LockLaw (closeRead g e q o bs s).locks) ∧
    (ChannelsLaw s.chans → ChannelsLaw (closeRead g e q o bs s).chans) := by
  refine ⟨fun h => ?_, fun h => ?_, fun h => ?_, fun h => ?_, fun h => ?_⟩ <;> unfold closeRead <;>
    (try dsimp only) <;> (repeat' split) <;>
    first | (simp (maxDischargeDepth := 30) [h]; done) | exact h

@[simp] theorem retryCmd_laws (g : ArrayGroup) (e : FgEntry) (q : PhaseCmd) (s : State) :
    (NoticeLaw s.link → NoticeLaw (retryCmd g e q s).link) ∧ (ChannelsLaw s.chans → ChannelsLaw (retryCmd g e q s).chans) := by
  refine ⟨fun h => ?_, fun h => ?_⟩ <;> unfold retryCmd <;> (try dsimp only) <;> (repeat' split) <;>
    first | (simp (maxDischargeDepth := 30) [h]; done) | exact h

@[simp] theorem takeFgRead_laws (g : ArrayGroup) (e : FgEntry) (q : PhaseCmd) (x : EndStatus) (s : State) :
    (NoticeLaw s.link → NoticeLaw (takeFgRead g e q x s).link) ∧ (LossLaw s.losses → LossLaw (takeFgRead g e q x s).losses) ∧
    (PoolLaw s.pool → PoolLaw (takeFgRead g e q x s).pool) ∧ (LockLaw s.locks → LockLaw (takeFgRead g e q x s).locks) ∧
    (ChannelsLaw s.chans → ChannelsLaw (takeFgRead g e q x s).chans) := by
  refine ⟨fun h => ?_, fun h => ?_, fun h => ?_, fun h => ?_, fun h => ?_⟩ <;> unfold takeFgRead <;>
    (try dsimp only) <;> (repeat' split) <;>
    first | (simp (maxDischargeDepth := 30) [h]; done) | exact h

@[simp] theorem reportWrite_laws (c : Chan) (good : Bool) (s : State) :
    (NoticeLaw s.link → NoticeLaw (reportWrite c good s).link) ∧ (PoolLaw s.pool → PoolLaw (reportWrite c good s).pool) ∧
    (ChannelsLaw s.chans → ChannelsLaw (reportWrite c good s).chans) := by
  refine ⟨fun h => ?_, fun h => ?_, fun h => ?_⟩ <;> unfold reportWrite <;> (try dsimp only) <;> (repeat' split) <;>
    first | (simp (maxDischargeDepth := 30) [h]; done) | exact h

@[simp] theorem takeFgWrite_laws (g : ArrayGroup) (e : FgEntry) (q : PhaseCmd) (x : EndStatus) (s : State) :
    (NoticeLaw s.link → NoticeLaw (takeFgWrite g e q x s).link) ∧ (AheadLaw s.table → AheadLaw (takeFgWrite g e q x s).table) ∧
    (LossLaw s.losses → LossLaw (takeFgWrite g e q x s).losses) ∧ (PoolLaw s.pool → PoolLaw (takeFgWrite g e q x s).pool) ∧
    (LockLaw s.locks → LockLaw (takeFgWrite g e q x s).locks) ∧
    (ChannelsLaw s.chans → ChannelsLaw (takeFgWrite g e q x s).chans) := by
  refine ⟨fun h => ?_, fun h => ?_, fun h => ?_, fun h => ?_, fun h => ?_, fun h => ?_⟩ <;> unfold takeFgWrite <;>
    (try dsimp only) <;> (repeat' split) <;>
    first | (simp (maxDischargeDepth := 30) [h]; done) | exact h

@[simp] theorem fgBuffers_laws (g : ArrayGroup) (e : FgEntry) (s : State) :
    (NoticeLaw s.link → NoticeLaw (fgBuffers g e s).link) ∧ (PoolLaw s.pool → PoolLaw (fgBuffers g e s).pool) := by
  refine ⟨fun h => ?_, fun h => ?_⟩ <;> unfold fgBuffers <;> (try dsimp only) <;> (repeat' split) <;>
    first | (simp (maxDischargeDepth := 30) [h]; done) | exact h

@[simp] theorem acceptFg_laws (g : ArrayGroup) (e : FgEntry) (s : State) :
    (NoticeLaw s.link → NoticeLaw (acceptFg g e s).link) ∧ (PoolLaw s.pool → PoolLaw (acceptFg g e s).pool) ∧
    (LockLaw s.locks → LockLaw (acceptFg g e s).locks) := by
  refine ⟨fun h => ?_, fun h => ?_, fun h => ?_⟩ <;> unfold acceptFg <;> (try dsimp only) <;> (repeat' split) <;>
    first | (simp (maxDischargeDepth := 30) [h]; done) | exact h

@[simp] theorem takeForeground_laws
    (tag : Tag) (type : Byte) (write : Bool) (lba : Nat) (count : Nat) (blocks : List Block) (s : State) :
    (NoticeLaw s.link → NoticeLaw (takeForeground tag type write lba count blocks s).link) ∧
    (PoolLaw s.pool → PoolLaw (takeForeground tag type write lba count blocks s).pool) ∧
    (LockLaw s.locks → LockLaw (takeForeground tag type write lba count blocks s).locks) := by
  refine ⟨fun h => ?_, fun h => ?_, fun h => ?_⟩ <;> unfold takeForeground <;> (try dsimp only) <;> (repeat' split) <;>
    first | (simp (maxDischargeDepth := 30) [h]; done) | exact h

@[simp] theorem takeStageArray_laws (tag : Tag) (g : ArrayGroup) (s : State) :
    (NoticeLaw s.link → NoticeLaw (takeStageArray tag g s).link) := by
  intro h
  unfold takeStageArray checked
  split <;> simp [h]

@[simp] theorem takeStagePolicy_laws (tag : Tag) (f : PolicyFields) (s : State) :
    (NoticeLaw s.link → NoticeLaw (takeStagePolicy tag f s).link) := by
  intro h
  unfold takeStagePolicy checked
  split <;> simp [h]

@[simp] theorem takeStageWindow_laws (tag : Tag) (f : WindowFields) (s : State) :
    (NoticeLaw s.link → NoticeLaw (takeStageWindow tag f s).link) := by
  intro h
  unfold takeStageWindow checked
  split <;> simp [h]

@[simp] theorem classesLatched_laws (s : State) :
    (NoticeLaw s.link → NoticeLaw (classesLatched s).link) ∧ (AheadLaw s.table → AheadLaw (classesLatched s).table) := by
  refine ⟨fun h => ?_, fun h => ?_⟩ <;> unfold classesLatched <;> split <;> first | exact h | skip
  · simp [h]
  · exact (evalHold_laws _).2 h

@[simp] theorem latch_laws (names : Groups) (s : State) :
    (NoticeLaw s.link → NoticeLaw (latch names s).link) ∧ (AheadLaw s.table → AheadLaw (latch names s).table) := by
  refine ⟨fun h => ?_, fun h => ?_⟩ <;> unfold latch <;> (try dsimp only) <;> (repeat' split) <;>
    first | (simp (maxDischargeDepth := 30) [h]; done) | exact h

@[simp] theorem takeCommit_laws (tag : Tag) (names : Groups) (s : State) :
    (NoticeLaw s.link → NoticeLaw (takeCommit tag names s).link) ∧ (AheadLaw s.table → AheadLaw (takeCommit tag names s).table) := by
  refine ⟨fun h => ?_, fun h => ?_⟩ <;> unfold takeCommit <;> (try dsimp only) <;> (repeat' split) <;>
    first | (simp (maxDischargeDepth := 30) [h]; done) | exact h

@[simp] theorem takeSetRate_laws (tag : Tag) (level : Nat) (s : State) :
    (NoticeLaw s.link → NoticeLaw (takeSetRate tag level s).link) := by
  intro h
  unfold takeSetRate checked
  split <;> simp [h]

@[simp] theorem takeSetMonitor_laws (tag : Tag) (f : MonitorFields) (s : State) :
    (NoticeLaw s.link → NoticeLaw (takeSetMonitor tag f s).link) := by
  intro h
  unfold takeSetMonitor checked
  split <;> simp [h]

@[simp] theorem takeIdentify_laws (tag : Tag) (s : State) :
    (NoticeLaw s.link → NoticeLaw (takeIdentify tag s).link) := by
  intro h
  unfold takeIdentify
  try dsimp only
  (repeat' split) <;> first | (simp (maxDischargeDepth := 30) [h]; done) | exact h

@[simp] theorem report_laws (tag : Tag) (r : Result) (s : State) :
    (NoticeLaw s.link → NoticeLaw (report tag r s).link) := by
  intro h
  unfold report
  try dsimp only
  (repeat' split) <;> first | (simp (maxDischargeDepth := 30) [h]; done) | exact h

@[simp] theorem takeQueryExtents_laws (tag : Tag) (q : IndexSpan) (s : State) :
    (NoticeLaw s.link → NoticeLaw (takeQueryExtents tag q s).link) := by
  intro h
  unfold takeQueryExtents
  try dsimp only
  (repeat' split) <;> first | (simp (maxDischargeDepth := 30) [h]; done) | exact h

@[simp] theorem takeQueryLosses_laws (tag : Tag) (q : IndexSpan) (s : State) :
    (NoticeLaw s.link → NoticeLaw (takeQueryLosses tag q s).link) := by
  intro h
  unfold takeQueryLosses
  try dsimp only
  (repeat' split) <;> first | (simp (maxDischargeDepth := 30) [h]; done) | exact h

@[simp] theorem beginStart_laws (g : ArrayGroup) (tag : Tag) (s : State) :
    (NoticeLaw s.link → NoticeLaw (beginStart g tag s).link) ∧ (AheadLaw s.table → AheadLaw (beginStart g tag s).table) ∧
    (LossLaw s.losses → LossLaw (beginStart g tag s).losses) ∧ (PoolLaw s.pool → PoolLaw (beginStart g tag s).pool) ∧
    (ChannelsLaw s.chans → ChannelsLaw (beginStart g tag s).chans) := by
  refine ⟨fun h => ?_, fun _ => ?_, fun _ => ?_, fun h => ?_, fun h => ?_⟩ <;> unfold beginStart <;> dsimp only
  · simp (maxDischargeDepth := 30) [h]
  · simp only [beginWrite_frame, setWriter_frame, giveRoles_frame, setLosses_frame]
    exact (evalHold_laws _).2 (by simp [AheadLaw])
  · simp only [beginWrite_frame, setWriter_frame, giveRoles_frame]
    exact ⟨List.Pairwise.nil, Nat.zero_le _⟩
  · simp (maxDischargeDepth := 30) [h]
  · simp (maxDischargeDepth := 30) [h]

@[simp] theorem takeStart_laws (tag : Tag) (s : State) :
    (NoticeLaw s.link → NoticeLaw (takeStart tag s).link) ∧ (AheadLaw s.table → AheadLaw (takeStart tag s).table) ∧
    (LossLaw s.losses → LossLaw (takeStart tag s).losses) ∧ (PoolLaw s.pool → PoolLaw (takeStart tag s).pool) ∧
    (ChannelsLaw s.chans → ChannelsLaw (takeStart tag s).chans) := by
  refine ⟨fun h => ?_, fun h => ?_, fun h => ?_, fun h => ?_, fun h => ?_⟩ <;> unfold takeStart <;>
    (try dsimp only) <;> (repeat' split) <;>
    first | (simp (maxDischargeDepth := 30) [h]; done) | exact h

@[simp] theorem beginRestore_laws (g : ArrayGroup) (tag : Tag) (s : State) :
    (NoticeLaw s.link → NoticeLaw (beginRestore g tag s).link) ∧
    (ChannelsLaw s.chans → ChannelsLaw (beginRestore g tag s).chans) := by
  refine ⟨fun h => ?_, fun h => ?_⟩ <;> unfold beginRestore <;> dsimp only
  · simp (maxDischargeDepth := 30) [h]
  · refine (readSlot_laws _ _ _) ?_
    have key : ChannelsLaw (setSession .restoring (beginLong .restore tag s)).chans := by simpa only [setSession_frame, beginLong_frame] using h
    exact ChannelsLaw.set key _ (key (spareChan g))

@[simp] theorem takeRestore_laws (tag : Tag) (s : State) :
    (NoticeLaw s.link → NoticeLaw (takeRestore tag s).link) ∧ (ChannelsLaw s.chans → ChannelsLaw (takeRestore tag s).chans) := by
  refine ⟨fun h => ?_, fun h => ?_⟩ <;> unfold takeRestore <;> (try dsimp only) <;> (repeat' split) <;>
    first | (simp (maxDischargeDepth := 30) [h]; done) | exact h

@[simp] theorem takePause_laws (tag : Tag) (s : State) :
    (NoticeLaw s.link → NoticeLaw (takePause tag s).link) ∧ (PoolLaw s.pool → PoolLaw (takePause tag s).pool) ∧
    (ChannelsLaw s.chans → ChannelsLaw (takePause tag s).chans) := by
  refine ⟨fun h => ?_, fun h => ?_, fun h => ?_⟩ <;> unfold takePause <;> (try dsimp only) <;> (repeat' split) <;>
    first | (simp (maxDischargeDepth := 30) [h]; done) | exact h

@[simp] theorem takeContinue_laws (tag : Tag) (s : State) :
    (NoticeLaw s.link → NoticeLaw (takeContinue tag s).link) ∧ (PoolLaw s.pool → PoolLaw (takeContinue tag s).pool) ∧
    (ChannelsLaw s.chans → ChannelsLaw (takeContinue tag s).chans) := by
  refine ⟨fun h => ?_, fun h => ?_, fun h => ?_⟩ <;> unfold takeContinue <;> (try dsimp only) <;> (repeat' split) <;>
    first | (simp (maxDischargeDepth := 30) [h]; done) | exact h

@[simp] theorem takeAbort_laws (tag : Tag) (s : State) :
    (NoticeLaw s.link → NoticeLaw (takeAbort tag s).link) ∧ (AheadLaw s.table → AheadLaw (takeAbort tag s).table) ∧
    (PoolLaw s.pool → PoolLaw (takeAbort tag s).pool) ∧ (LockLaw s.locks → LockLaw (takeAbort tag s).locks) ∧
    (ChannelsLaw s.chans → ChannelsLaw (takeAbort tag s).chans) := by
  refine ⟨fun h => ?_, fun h => ?_, fun h => ?_, fun h => ?_, fun h => ?_⟩ <;> unfold takeAbort <;>
    (try dsimp only) <;> (repeat' split) <;>
    first | (simp (maxDischargeDepth := 30) [h]; done) | exact h

@[simp] theorem takeRelease_laws (tag : Tag) (s : State) :
    (NoticeLaw s.link → NoticeLaw (takeRelease tag s).link) ∧ (AheadLaw s.table → AheadLaw (takeRelease tag s).table) ∧
    (LossLaw s.losses → LossLaw (takeRelease tag s).losses) ∧ (ChannelsLaw s.chans → ChannelsLaw (takeRelease tag s).chans) := by
  refine ⟨fun h => ?_, fun h => ?_, fun h => ?_, fun h => ?_⟩ <;> unfold takeRelease <;> (try dsimp only) <;> (repeat' split) <;>
    first | (simp (maxDischargeDepth := 30) [h]; done) | exact h

/-- The reset state keeps the laws of its tables. -/
theorem afterReset_laws (c : ResetCause) (p : List Instr) :
    NoticeLaw (State.afterReset c p).link ∧ AheadLaw (State.afterReset c p).table ∧ LossLaw (State.afterReset c p).losses ∧
    PoolLaw (State.afterReset c p).pool ∧ LockLaw (State.afterReset c p).locks ∧ ChannelsLaw (State.afterReset c p).chans := by
  refine ⟨.reset c, by simp [State.afterReset, AheadLaw, ExtentTable.empty], by simp [State.afterReset, LossLaw],
    by simp [State.afterReset, PoolLaw], by simp [State.afterReset, LockLaw], fun k => ?_⟩
  simp [State.afterReset, ChannelLaw, ChannelRec.reset]

/-- What a request's owner keeps is kept, whether or not its body is present. -/
theorem withBody_law {α : Type} {P : State → Prop} {body : Option α} {take : α → State → State} {s : State} (h : P s)
    (ht : ∀ b, P (take b s)) : P (withBody body take s) := by
  cases body
  · exact h
  · exact ht _

@[simp] theorem handToOwner_laws (tag : Tag) (r : Request) (s : State) :
    (NoticeLaw s.link → NoticeLaw (handToOwner tag r s).link) ∧ (AheadLaw s.table → AheadLaw (handToOwner tag r s).table) ∧
    (LossLaw s.losses → LossLaw (handToOwner tag r s).losses) ∧ (PoolLaw s.pool → PoolLaw (handToOwner tag r s).pool) ∧
    (LockLaw s.locks → LockLaw (handToOwner tag r s).locks) ∧ (ChannelsLaw s.chans → ChannelsLaw (handToOwner tag r s).chans) := by
  obtain ⟨r1, r2, r3, r4, r5, r6⟩ := afterReset_laws .command s.pending
  refine ⟨fun h => ?_, fun h => ?_, fun h => ?_, fun h => ?_, fun h => ?_, fun h => ?_⟩ <;> cases r
  all_goals first
    | exact h
    | assumption
    | exact withBody_law (P := fun t => NoticeLaw t.link) h fun b => by simp only [takeIdentify_laws, takeStageArray_laws, takeStagePolicy_laws, takeStageWindow_laws, takeCommit_laws, report_laws, takeQueryExtents_laws, takeQueryLosses_laws, takeStart_laws, takeRestore_laws, takePause_laws, takeContinue_laws, takeAbort_laws, takeRelease_laws, takeSetRate_laws, takeSetMonitor_laws, takeForeground_laws, h]
    | exact withBody_law (P := fun t => AheadLaw t.table) h fun b => by simp [h]
    | exact withBody_law (P := fun t => LossLaw t.losses) h fun b => by simp [h]
    | exact withBody_law (P := fun t => PoolLaw t.pool) h fun b => by simp [h]
    | exact withBody_law (P := fun t => LockLaw t.locks) h fun b => by simp [h]
    | exact withBody_law (P := fun t => ChannelsLaw t.chans) h fun b => by simp [h]
    | exact (refuse_laws _ _ _ _) h

@[simp] theorem dispatch_laws (tag : Tag) (r : Request) (s : State) :
    (NoticeLaw s.link → NoticeLaw (dispatch tag r s).link) ∧ (AheadLaw s.table → AheadLaw (dispatch tag r s).table) ∧
    (LossLaw s.losses → LossLaw (dispatch tag r s).losses) ∧ (PoolLaw s.pool → PoolLaw (dispatch tag r s).pool) ∧
    (LockLaw s.locks → LockLaw (dispatch tag r s).locks) ∧ (ChannelsLaw s.chans → ChannelsLaw (dispatch tag r s).chans) := by
  obtain ⟨r1, r2, r3, r4, r5, r6⟩ := afterReset_laws .command s.pending
  obtain ⟨o1, o2, o3, o4, o5, o6⟩ := handToOwner_laws tag r s
  refine ⟨fun h => ?_, fun h => ?_, fun h => ?_, fun h => ?_, fun h => ?_, fun h => ?_⟩ <;> unfold dispatch <;> split
  all_goals first
    | assumption
    | (simp only [refuse_laws, h]; done)
    | ((repeat' split) <;> simp only [refuse_laws, refuse_frame, h, o1, o2, o3, o4, o5, o6])

@[simp] theorem setLink_laws (l : ControlLink) (s : State) :
    (NoticeLaw l → NoticeLaw (setLink l s).link) := id

@[simp] theorem gather_laws (bs : List Byte) (s : State) :
    (NoticeLaw s.link → NoticeLaw (gather bs s).link) := fun h => h

@[simp] theorem backToHunt_laws (s : State) :
    (NoticeLaw s.link → NoticeLaw (backToHunt s).link) := fun h => h

@[simp] theorem raiseLinkError_laws (why : LinkErrorReason) (type : Byte) (s : State) :
    (NoticeLaw s.link → NoticeLaw (raiseLinkError why type s).link) := by
  intro h
  unfold raiseLinkError
  try dsimp only
  (repeat' split) <;> first | (simp (maxDischargeDepth := 30) [h]; done) | exact h

@[simp] theorem holdBytes_laws (bs : List Byte) (s : State) :
    (NoticeLaw s.link → NoticeLaw (holdBytes bs s).link) := fun h => h

@[simp] theorem searchBytes_laws (n : Nat) (bs : List Byte) (s : State) :
    (NoticeLaw s.link → NoticeLaw (searchBytes n bs s).link) ∧ (AheadLaw s.table → AheadLaw (searchBytes n bs s).table) ∧
    (LossLaw s.losses → LossLaw (searchBytes n bs s).losses) ∧ (PoolLaw s.pool → PoolLaw (searchBytes n bs s).pool) ∧
    (LockLaw s.locks → LockLaw (searchBytes n bs s).locks) ∧ (ChannelsLaw s.chans → ChannelsLaw (searchBytes n bs s).chans) := by
  induction n generalizing bs s with
  | zero => exact ⟨id, id, id, id, id, id⟩
  | succ n ih =>
    refine ⟨fun h => ?_, fun h => ?_, fun h => ?_, fun h => ?_, fun h => ?_, fun h => ?_⟩ <;> unfold searchBytes <;> split
    all_goals first
      | exact h
      | (refine (ih _ _).1 ?_; simp only [raiseLinkError_laws, h]; done)
      | (refine (ih _ _).2.1 ?_; simp only [raiseLinkError_frame, h]; done)
      | (refine (ih _ _).2.2.1 ?_; simp only [raiseLinkError_frame, h]; done)
      | (refine (ih _ _).2.2.2.1 ?_; simp only [raiseLinkError_frame, h]; done)
      | (refine (ih _ _).2.2.2.2.1 ?_; simp only [raiseLinkError_frame, h]; done)
      | (refine (ih _ _).2.2.2.2.2 ?_; simp only [raiseLinkError_frame, h]; done)
      | (dsimp only
         split
         · simp (maxDischargeDepth := 30) only [dispatch_laws, backToHunt_laws, backToHunt_frame, h]
         · split <;> simp (maxDischargeDepth := 30) only
             [ih, holdBytes_laws, holdBytes_frame, dispatch_laws, backToHunt_laws, backToHunt_frame, h])

@[simp] theorem takeBytes_laws (bs : List Byte) (s : State) :
    (NoticeLaw s.link → NoticeLaw (takeBytes bs s).link) ∧ (AheadLaw s.table → AheadLaw (takeBytes bs s).table) ∧
    (LossLaw s.losses → LossLaw (takeBytes bs s).losses) ∧ (PoolLaw s.pool → PoolLaw (takeBytes bs s).pool) ∧
    (LockLaw s.locks → LockLaw (takeBytes bs s).locks) ∧ (ChannelsLaw s.chans → ChannelsLaw (takeBytes bs s).chans) := by
  refine ⟨fun h => ?_, fun h => ?_, fun h => ?_, fun h => ?_, fun h => ?_, fun h => ?_⟩ <;> unfold takeBytes <;>
    (try dsimp only) <;> (repeat' split) <;>
    first | (simp (maxDischargeDepth := 30) [h]; done) | exact h

@[simp] theorem takeAsBytes_laws (tag : Tag) (r : Request) (s : State) :
    (NoticeLaw s.link → NoticeLaw (takeAsBytes tag r s).link) ∧ (AheadLaw s.table → AheadLaw (takeAsBytes tag r s).table) ∧
    (LossLaw s.losses → LossLaw (takeAsBytes tag r s).losses) ∧ (PoolLaw s.pool → PoolLaw (takeAsBytes tag r s).pool) ∧
    (LockLaw s.locks → LockLaw (takeAsBytes tag r s).locks) ∧ (ChannelsLaw s.chans → ChannelsLaw (takeAsBytes tag r s).chans) := by
  refine ⟨fun h => ?_, fun h => ?_, fun h => ?_, fun h => ?_, fun h => ?_, fun h => ?_⟩ <;> unfold takeAsBytes <;>
    simp only [takeBytes_laws, setLink_laws, setLink_frame, h]
  exact (takeBytes_laws _ _).1 h

@[simp] theorem takeInbound_laws (x : Inbound) (s : State) :
    (NoticeLaw s.link → NoticeLaw (takeInbound x s).link) ∧ (AheadLaw s.table → AheadLaw (takeInbound x s).table) ∧
    (LossLaw s.losses → LossLaw (takeInbound x s).losses) ∧ (PoolLaw s.pool → PoolLaw (takeInbound x s).pool) ∧
    (LockLaw s.locks → LockLaw (takeInbound x s).locks) ∧ (ChannelsLaw s.chans → ChannelsLaw (takeInbound x s).chans) := by
  refine ⟨fun h => ?_, fun h => ?_, fun h => ?_, fun h => ?_, fun h => ?_, fun h => ?_⟩ <;> unfold takeInbound <;>
    (repeat' split) <;>
    simp (maxDischargeDepth := 30) only [takeAsBytes_laws, takeBytes_laws, dispatch_laws, backToHunt_laws, backToHunt_frame, h]

@[simp] theorem receive_laws (x : Inbound) (s : State) :
    (NoticeLaw s.link → NoticeLaw (receive x s).link) ∧ (AheadLaw s.table → AheadLaw (receive x s).table) ∧
    (LossLaw s.losses → LossLaw (receive x s).losses) ∧ (PoolLaw s.pool → PoolLaw (receive x s).pool) ∧
    (LockLaw s.locks → LockLaw (receive x s).locks) ∧ (ChannelsLaw s.chans → ChannelsLaw (receive x s).chans) := by
  refine ⟨fun h => ?_, fun h => ?_, fun h => ?_, fun h => ?_, fun h => ?_, fun h => ?_⟩ <;> unfold receive <;> split <;>
    first
    | exact h
    | simp only [takeInbound_laws, h]

@[simp] theorem takeHeld_laws (s : State) :
    (NoticeLaw s.link → NoticeLaw (takeHeld s).link) ∧ (AheadLaw s.table → AheadLaw (takeHeld s).table) ∧
    (LossLaw s.losses → LossLaw (takeHeld s).losses) ∧ (PoolLaw s.pool → PoolLaw (takeHeld s).pool) ∧
    (LockLaw s.locks → LockLaw (takeHeld s).locks) ∧ (ChannelsLaw s.chans → ChannelsLaw (takeHeld s).chans) := by
  refine ⟨fun h => ?_, fun h => ?_, fun h => ?_, fun h => ?_, fun h => ?_, fun h => ?_⟩ <;> unfold takeHeld <;> split <;>
    first
    | exact h
    | (split
       · exact h
       · first
         | exact (takeInbound_laws _ _).1 h
         | exact (takeInbound_laws _ _).2.1 h
         | exact (takeInbound_laws _ _).2.2.1 h
         | exact (takeInbound_laws _ _).2.2.2.1 h
         | exact (takeInbound_laws _ _).2.2.2.2.1 h
         | exact (takeInbound_laws _ _).2.2.2.2.2 h)

@[simp] theorem takeLinkUp_laws (c : Chan) (s : State) :
    (ChannelsLaw s.chans → ChannelsLaw (takeLinkUp c s).chans) := by
  intro h
  have key : ChannelsLaw (takeResetAnswer c (setChan c { s.chans[c] with linkPresent := true } s)).chans :=
    takeResetAnswer_laws _ _ (h.set c (h c))
  unfold takeLinkUp
  dsimp only
  split
  · exact (serveChannel_laws _ _) key
  · exact key

@[simp] theorem takeFirstTold_laws (c : Chan) (s : State) :
    (NoticeLaw s.link → NoticeLaw (takeFirstTold c s).link) ∧ (AheadLaw s.table → AheadLaw (takeFirstTold c s).table) ∧
    (PoolLaw s.pool → PoolLaw (takeFirstTold c s).pool) ∧ (LockLaw s.locks → LockLaw (takeFirstTold c s).locks) ∧
    (ChannelsLaw s.chans → ChannelsLaw (takeFirstTold c s).chans) := by
  refine ⟨fun h => ?_, fun h => ?_, fun h => ?_, fun h => ?_, fun h => ?_⟩ <;> unfold takeFirstTold <;>
    (try dsimp only) <;> (repeat' split) <;>
    first | (simp (maxDischargeDepth := 30) [h]; done) | exact h

@[simp] theorem answerClaim_laws (l : Lane) (s : State) :
    (NoticeLaw s.link → NoticeLaw (answerClaim l s).link) ∧ (AheadLaw s.table → AheadLaw (answerClaim l s).table) := by
  refine ⟨fun h => ?_, fun h => ?_⟩ <;> unfold answerClaim <;> (try dsimp only) <;> (repeat' split) <;>
    first | (simp (maxDischargeDepth := 30) [h]; done) | exact h

@[simp] theorem useAnswer_laws (g : ArrayGroup) (a : ClaimAnswer) (s : State) :
    (NoticeLaw s.link → NoticeLaw (useAnswer g a s).link) ∧ (AheadLaw s.table → AheadLaw (useAnswer g a s).table) ∧
    (PoolLaw s.pool → PoolLaw (useAnswer g a s).pool) ∧ (LockLaw s.locks → LockLaw (useAnswer g a s).locks) ∧
    (ChannelsLaw s.chans → ChannelsLaw (useAnswer g a s).chans) := by
  refine ⟨fun h => ?_, fun h => ?_, fun h => ?_, fun h => ?_, fun h => ?_⟩ <;> unfold useAnswer <;>
    (try dsimp only) <;> (repeat' split) <;>
    first | (simp (maxDischargeDepth := 30) [h]; done) | exact h

@[simp] theorem takeAnswer_laws (l : Lane) (s : State) :
    (NoticeLaw s.link → NoticeLaw (takeAnswer l s).link) ∧ (AheadLaw s.table → AheadLaw (takeAnswer l s).table) ∧
    (PoolLaw s.pool → PoolLaw (takeAnswer l s).pool) ∧ (LockLaw s.locks → LockLaw (takeAnswer l s).locks) ∧
    (ChannelsLaw s.chans → ChannelsLaw (takeAnswer l s).chans) := by
  refine ⟨fun h => ?_, fun h => ?_, fun h => ?_, fun h => ?_, fun h => ?_⟩ <;> unfold takeAnswer <;>
    (try dsimp only) <;> (repeat' split) <;>
    first | (simp (maxDischargeDepth := 30) [h]; done) | exact h

@[simp] theorem useGrant_laws (g : ArrayGroup) (op : OpName) (s : State) :
    (NoticeLaw s.link → NoticeLaw (useGrant g op s).link) ∧ (PoolLaw s.pool → PoolLaw (useGrant g op s).pool) := by
  refine ⟨fun h => ?_, fun h => ?_⟩ <;> unfold useGrant <;> (try dsimp only) <;> (repeat' split) <;>
    first | (simp (maxDischargeDepth := 30) [h]; done) | exact h

@[simp] theorem takeLockGrant_laws (op : OpName) (s : State) :
    (NoticeLaw s.link → NoticeLaw (takeLockGrant op s).link) ∧ (PoolLaw s.pool → PoolLaw (takeLockGrant op s).pool) := by
  refine ⟨fun h => ?_, fun h => ?_⟩ <;> unfold takeLockGrant <;> split
  all_goals first
    | exact h
    | (next ht =>
        have e := takeGrant_frame ht
        first
          | (simp (maxDischargeDepth := 30) [e, h]; done)
          | (split <;> first | (simp (maxDischargeDepth := 30) [e, h]; done) | exact h))

@[simp] theorem useReservation_laws (g : ArrayGroup) (op : OpName) (s : State) :
    (NoticeLaw s.link → NoticeLaw (useReservation g op s).link) ∧ (LossLaw s.losses → LossLaw (useReservation g op s).losses) ∧
    (PoolLaw s.pool → PoolLaw (useReservation g op s).pool) ∧ (LockLaw s.locks → LockLaw (useReservation g op s).locks) ∧
    (ChannelsLaw s.chans → ChannelsLaw (useReservation g op s).chans) := by
  refine ⟨fun h => ?_, fun h => ?_, fun h => ?_, fun h => ?_, fun h => ?_⟩ <;> unfold useReservation <;>
    (try dsimp only) <;> (repeat' split) <;>
    first | (simp (maxDischargeDepth := 30) [h]; done) | exact h

@[simp] theorem takeBuffers_laws (op : OpName) (s : State) :
    (NoticeLaw s.link → NoticeLaw (takeBuffers op s).link) ∧ (LossLaw s.losses → LossLaw (takeBuffers op s).losses) ∧
    (PoolLaw s.pool → PoolLaw (takeBuffers op s).pool) ∧ (LockLaw s.locks → LockLaw (takeBuffers op s).locks) ∧
    (ChannelsLaw s.chans → ChannelsLaw (takeBuffers op s).chans) := by
  refine ⟨fun h => ?_, fun h => ?_, fun h => ?_, fun h => ?_, fun h => ?_⟩ <;> unfold takeBuffers <;> split
  all_goals first
    | exact h
    | (next ht =>
        have e := takeReservation_frame ht
        first
          | (simp (maxDischargeDepth := 30) [e, h]; done)
          | (split <;> first | (simp (maxDischargeDepth := 30) [e, h]; done) | exact h))

@[simp] theorem laneRead_laws (l : Lane) (c : Chan) (s : State) :
    (NoticeLaw s.link → NoticeLaw (laneRead l c s).link) ∧ (ChannelsLaw s.chans → ChannelsLaw (laneRead l c s).chans) := by
  refine ⟨fun h => ?_, fun h => ?_⟩ <;> unfold laneRead <;> split
  all_goals first
    | exact h
    | (next ht =>
        have e := takeEnding_frame ht
        first
          | (simp (maxDischargeDepth := 30) [e, h]; done)
          | (split <;> first | (simp (maxDischargeDepth := 30) [e, h]; done) | exact h))

@[simp] theorem laneWrite_laws (l : Lane) (s : State) :
    (NoticeLaw s.link → NoticeLaw (laneWrite l s).link) ∧ (AheadLaw s.table → AheadLaw (laneWrite l s).table) ∧
    (LossLaw s.losses → LossLaw (laneWrite l s).losses) ∧ (PoolLaw s.pool → PoolLaw (laneWrite l s).pool) ∧
    (LockLaw s.locks → LockLaw (laneWrite l s).locks) ∧ (ChannelsLaw s.chans → ChannelsLaw (laneWrite l s).chans) := by
  refine ⟨fun h => ?_, fun h => ?_, fun h => ?_, fun h => ?_, fun h => ?_, fun h => ?_⟩ <;> unfold laneWrite <;> split
  all_goals first
    | exact h
    | (next ht =>
        have e := takeEnding_frame ht
        first
          | (simp (maxDischargeDepth := 30) [e, h]; done)
          | (split <;> first | (simp (maxDischargeDepth := 30) [e, h]; done) | exact h))

@[simp] theorem governSignal_laws (s : State) :
    (NoticeLaw s.link → NoticeLaw (governSignal s).link) := by
  intro h
  unfold governSignal
  try dsimp only
  (repeat' split) <;> first | (simp (maxDischargeDepth := 30) [h]; done) | exact h

@[simp] theorem quietTimer_laws (s : State) :
    (NoticeLaw s.link → NoticeLaw (quietTimer s).link) := by
  intro h
  unfold quietTimer
  try dsimp only
  (repeat' split) <;> first | (simp (maxDischargeDepth := 30) [h]; done) | exact h

@[simp] theorem fgRead_laws (tag : Tag) (c : Chan) (s : State) :
    (NoticeLaw s.link → NoticeLaw (fgRead tag c s).link) ∧ (LossLaw s.losses → LossLaw (fgRead tag c s).losses) ∧
    (PoolLaw s.pool → PoolLaw (fgRead tag c s).pool) ∧ (LockLaw s.locks → LockLaw (fgRead tag c s).locks) ∧
    (ChannelsLaw s.chans → ChannelsLaw (fgRead tag c s).chans) := by
  refine ⟨fun h => ?_, fun h => ?_, fun h => ?_, fun h => ?_, fun h => ?_⟩ <;> unfold fgRead <;> split
  all_goals first
    | exact h
    | (next ht =>
        have e := takeEnding_frame ht
        first
          | (simp (maxDischargeDepth := 30) [e, h]; done)
          | (split <;> first | (simp (maxDischargeDepth := 30) [e, h]; done) | exact h))

@[simp] theorem fgWrite_laws (tag : Tag) (c : Chan) (s : State) :
    (NoticeLaw s.link → NoticeLaw (fgWrite tag c s).link) ∧ (AheadLaw s.table → AheadLaw (fgWrite tag c s).table) ∧
    (LossLaw s.losses → LossLaw (fgWrite tag c s).losses) ∧ (PoolLaw s.pool → PoolLaw (fgWrite tag c s).pool) ∧
    (LockLaw s.locks → LockLaw (fgWrite tag c s).locks) ∧ (ChannelsLaw s.chans → ChannelsLaw (fgWrite tag c s).chans) := by
  refine ⟨fun h => ?_, fun h => ?_, fun h => ?_, fun h => ?_, fun h => ?_, fun h => ?_⟩ <;> unfold fgWrite <;> split
  all_goals first
    | exact h
    | (next ht =>
        have e := takeEnding_frame ht
        first
          | (simp (maxDischargeDepth := 30) [e, h]; done)
          | (split <;> first | (simp (maxDischargeDepth := 30) [e, h]; done) | exact h))

@[simp] theorem checkpointTrigger_laws (s : State) :
    (NoticeLaw s.link → NoticeLaw (checkpointTrigger s).link) ∧ (PoolLaw s.pool → PoolLaw (checkpointTrigger s).pool) ∧
    (ChannelsLaw s.chans → ChannelsLaw (checkpointTrigger s).chans) := by
  refine ⟨fun h => ?_, fun h => ?_, fun h => ?_⟩ <;> unfold checkpointTrigger <;> (try dsimp only) <;> (repeat' split) <;>
    first | (simp (maxDischargeDepth := 30) [h]; done) | exact h

@[simp] theorem periodTimer_laws (s : State) :
    (NoticeLaw s.link → NoticeLaw (periodTimer s).link) ∧ (PoolLaw s.pool → PoolLaw (periodTimer s).pool) ∧
    (ChannelsLaw s.chans → ChannelsLaw (periodTimer s).chans) := by
  refine ⟨fun h => ?_, fun h => ?_, fun h => ?_⟩ <;> unfold periodTimer <;> (try dsimp only) <;> (repeat' split) <;>
    first | (simp (maxDischargeDepth := 30) [h]; done) | exact h

@[simp] theorem checkpointWrite_laws (s : State) :
    (NoticeLaw s.link → NoticeLaw (checkpointWrite s).link) ∧ (AheadLaw s.table → AheadLaw (checkpointWrite s).table) ∧
    (LossLaw s.losses → LossLaw (checkpointWrite s).losses) ∧ (PoolLaw s.pool → PoolLaw (checkpointWrite s).pool) ∧
    (ChannelsLaw s.chans → ChannelsLaw (checkpointWrite s).chans) := by
  refine ⟨fun h => ?_, fun h => ?_, fun h => ?_, fun h => ?_, fun h => ?_⟩ <;> unfold checkpointWrite <;> split
  all_goals first
    | exact h
    | (next ht =>
        have e := takeEnding_frame ht
        first
          | (simp (maxDischargeDepth := 30) [e, h]; done)
          | (split <;> first | (simp (maxDischargeDepth := 30) [e, h]; done) | exact h))

@[simp] theorem checkpointRead_laws (s : State) :
    (NoticeLaw s.link → NoticeLaw (checkpointRead s).link) ∧ (AheadLaw s.table → AheadLaw (checkpointRead s).table) ∧
    (LossLaw s.losses → LossLaw (checkpointRead s).losses) ∧ (PoolLaw s.pool → PoolLaw (checkpointRead s).pool) ∧
    (ChannelsLaw s.chans → ChannelsLaw (checkpointRead s).chans) := by
  refine ⟨fun h => ?_, fun h => ?_, fun h => ?_, fun h => ?_, fun h => ?_⟩ <;> unfold checkpointRead <;> split
  all_goals first
    | exact h
    | (next ht =>
        have e := takeEnding_frame ht
        first
          | (simp (maxDischargeDepth := 30) [e, h]; done)
          | (split <;> first | (simp (maxDischargeDepth := 30) [e, h]; done) | exact h))

/-- The sender's end of a record keeps the notice set's law (R182). -/
@[simp] theorem finishRecord_law {p : PolicyGroup} {l : ControlLink} (h : NoticeLaw l) : NoticeLaw (finishRecord p l) := by
  unfold finishRecord
  split
  · exact h
  · next r _ => exact NoticeLaw.chooseNext (l := { l with sent := l.sent ++ [r] }) h p

end Sys2Proof.Machine
end

