-- ==== Sys2Proof/Laws/KeepsQueue.lean ====
section
/-! SUPPORT. The laws of the foreground queue and of the plan store under the operations that touch them. -/

namespace Sys2Proof.Machine
set_option Elab.async false
set_option linter.unusedTactic false
set_option linter.unreachableTactic false
set_option linter.unnecessarySeqFocus false
open Sys2Proof

/-- No entry of the queue has a tag that is not outstanding (R177). -/
theorem QueueLaw_new {s : State} {tag : Tag} (h : tagOutstanding s tag = false) : ∀ f ∈ s.queue, f.tag ≠ tag := by
  unfold tagOutstanding at h
  simp only [Bool.or_eq_false_iff, List.any_eq_false, decide_eq_true_eq] at h
  exact h.1

/-- No check of a list fails. -/
theorem firstFailing_none {l : List (Nat × Bool)} : firstFailing l = none ↔ ∀ p ∈ l, p.2 = true := by
  simp [firstFailing]

@[simp] theorem setEntry_queueLaw (e : FgEntry) (s : State) :
    (QueueLaw s.queue → QueueLaw (setEntry e s).queue) := by
  intro h
  refine h.map fun f => ?_
  split
  · next hf => exact hf.symm
  · rfl

@[simp] theorem beginPhase_queueLaw (g : ArrayGroup) (e : FgEntry) (stage : FgStage) (p : PhasePlan) (write : Bool) (s : State) :
    (QueueLaw s.queue → QueueLaw (beginPhase g e stage p write s).queue) :=
  fun h => foldl_law (P := fun t => QueueLaw t.queue) (fun t x ht => by simpa using ht) _ (setEntry_queueLaw _ _ h)

@[simp] theorem handFgReply_queueLaw (e : FgEntry) (a : Answer) (r : Result) (s : State) :
    (QueueLaw s.queue → QueueLaw (handFgReply e a r s).queue) := by
  intro h
  have k := h.filter fun f => f.tag ≠ e.tag
  unfold handFgReply
  dsimp only
  split <;> simpa using k

@[simp] theorem endFg_queueLaw (e : FgEntry) (a : Answer) (r : Result) (s : State) :
    (QueueLaw s.queue → QueueLaw (endFg e a r s).queue) := by
  intro h
  unfold endFg
  try dsimp only
  (repeat' split) <;> first | (simp (maxDischargeDepth := 30) [h]; done) | exact h

@[simp] theorem endRead_queueLaw (g : ArrayGroup) (e : FgEntry) (s : State) :
    (QueueLaw s.queue → QueueLaw (endRead g e s).queue) := by
  intro h
  unfold endRead
  try dsimp only
  (repeat' split) <;> first | (simp (maxDischargeDepth := 30) [h]; done) | exact h

@[simp] theorem planRead_queueLaw (g : ArrayGroup) (e : FgEntry) (s : State) :
    (QueueLaw s.queue → QueueLaw (planRead g e s).queue) := by
  intro h
  unfold planRead
  try dsimp only
  (repeat' split) <;> first | (simp (maxDischargeDepth := 30) [h]; done) | exact h

@[simp] theorem endReconstruct_queueLaw (g : ArrayGroup) (e : FgEntry) (s : State) :
    (QueueLaw s.queue → QueueLaw (endReconstruct g e s).queue) := by
  intro h
  unfold endReconstruct
  try dsimp only
  (repeat' split) <;> first | (simp (maxDischargeDepth := 30) [h]; done) | exact h

@[simp] theorem planReconstruct_queueLaw (g : ArrayGroup) (e : FgEntry) (wanted : List (Nat × Nat)) (s : State) :
    (QueueLaw s.queue → QueueLaw (planReconstruct g e wanted s).queue) := by
  intro h
  unfold planReconstruct
  try dsimp only
  (repeat' split) <;> first | (simp (maxDischargeDepth := 30) [h]; done) | exact h

@[simp] theorem endReadPhase_queueLaw (g : ArrayGroup) (e : FgEntry) (s : State) :
    (QueueLaw s.queue → QueueLaw (endReadPhase g e s).queue) := by
  intro h
  unfold endReadPhase
  try dsimp only
  (repeat' split) <;> first | (simp (maxDischargeDepth := 30) [h]; done) | exact h

@[simp] theorem planFullWrite_queueLaw (g : ArrayGroup) (e : FgEntry) (p : PhasePlan) (s : State) :
    (QueueLaw s.queue → QueueLaw (planFullWrite g e p s).queue) := by
  intro h
  unfold planFullWrite
  try dsimp only
  (repeat' split) <;> first | (simp (maxDischargeDepth := 30) [h]; done) | exact h

@[simp] theorem planWrite_queueLaw (g : ArrayGroup) (e : FgEntry) (s : State) :
    (QueueLaw s.queue → QueueLaw (planWrite g e s).queue) := by
  intro h
  unfold planWrite
  try dsimp only
  (repeat' split) <;> first | (simp (maxDischargeDepth := 30) [h]; done) | exact h

@[simp] theorem endWriteRead_queueLaw (g : ArrayGroup) (e : FgEntry) (s : State) :
    (QueueLaw s.queue → QueueLaw (endWriteRead g e s).queue) := by
  intro h
  unfold endWriteRead
  try dsimp only
  (repeat' split) <;> first | (simp (maxDischargeDepth := 30) [h]; done) | exact h

@[simp] theorem planFirst_queueLaw (g : ArrayGroup) (e : FgEntry) (s : State) :
    (QueueLaw s.queue → QueueLaw (planFirst g e s).queue) := by
  intro h
  unfold planFirst
  try dsimp only
  (repeat' split) <;> first | (simp (maxDischargeDepth := 30) [h]; done) | exact h

@[simp] theorem judgeReads_queueLaw (g : ArrayGroup) (e : FgEntry) (s : State) :
    (QueueLaw s.queue → QueueLaw (judgeReads g e s).queue) := by
  intro h
  unfold judgeReads
  try dsimp only
  (repeat' split) <;> first | (simp (maxDischargeDepth := 30) [h]; done) | exact h

@[simp] theorem endReads_queueLaw (g : ArrayGroup) (e : FgEntry) (s : State) :
    (QueueLaw s.queue → QueueLaw (endReads g e s).queue) := judgeReads_queueLaw _ _ _

@[simp] theorem closeRead_queueLaw (g : ArrayGroup) (e : FgEntry) (q : PhaseCmd) (o : CmdOutcome) (bs : List (Option Block)) (s : State) :
    (QueueLaw s.queue → QueueLaw (closeRead g e q o bs s).queue) := by
  intro h
  unfold closeRead
  try dsimp only
  (repeat' split) <;> first | (simp (maxDischargeDepth := 30) [h]; done) | exact h

@[simp] theorem retryCmd_queueLaw (g : ArrayGroup) (e : FgEntry) (q : PhaseCmd) (s : State) :
    (QueueLaw s.queue → QueueLaw (retryCmd g e q s).queue) := by
  intro h
  unfold retryCmd
  try dsimp only
  (repeat' split) <;> first | (simp (maxDischargeDepth := 30) [h]; done) | exact h

@[simp] theorem takeFgRead_queueLaw (g : ArrayGroup) (e : FgEntry) (q : PhaseCmd) (x : EndStatus) (s : State) :
    (QueueLaw s.queue → QueueLaw (takeFgRead g e q x s).queue) := by
  intro h
  unfold takeFgRead
  try dsimp only
  (repeat' split) <;> first | (simp (maxDischargeDepth := 30) [h]; done) | exact h

@[simp] theorem takeFgWrite_queueLaw (g : ArrayGroup) (e : FgEntry) (q : PhaseCmd) (x : EndStatus) (s : State) :
    (QueueLaw s.queue → QueueLaw (takeFgWrite g e q x s).queue) := by
  intro h
  unfold takeFgWrite
  try dsimp only
  (repeat' split) <;> first | (simp (maxDischargeDepth := 30) [h]; done) | exact h

@[simp] theorem fgBuffers_queueLaw (g : ArrayGroup) (e : FgEntry) (s : State) :
    (QueueLaw s.queue → QueueLaw (fgBuffers g e s).queue) := by
  intro h
  unfold fgBuffers
  try dsimp only
  (repeat' split) <;> first | (simp (maxDischargeDepth := 30) [h]; done) | exact h

@[simp] theorem acceptFg_queueLaw (g : ArrayGroup) (e : FgEntry) (s : State) :
    (QueueLaw s.queue → s.queue.length < 32 → (∀ f ∈ s.queue, f.tag ≠ e.tag) → QueueLaw (acceptFg g e s).queue) := by
  intro h room new
  have k := h.join room new
  unfold acceptFg
  dsimp only
  split
  · unfold fgBuffers
    simp only [requestBuffers_frame]
    exact setEntry_queueLaw _ _ (by simpa using k)
  · simpa using k

@[simp] theorem takeForeground_queueLaw (tag : Tag) (type : Byte) (write : Bool) (lba : Nat) (count : Nat) (blocks : List Block)
    (s : State) :
    (QueueLaw s.queue → tagOutstanding s tag = false → QueueLaw (takeForeground tag type write lba count blocks s).queue) := by
  intro h new
  unfold takeForeground
  split
  · simpa using h
  · split
    · simpa using h
    · next hr =>
      refine acceptFg_queueLaw _ _ _ h ?_ (QueueLaw_new new)
      by_contra hc
      have : Config.queueRoom ≤ s.queue.length := by simpa [Config.queueRoom] using hc
      unfold fgRefusal at hr
      simp only [this, if_true] at hr
      (repeat' split at hr) <;> cases hr

/-- The fields of a STAGE-POLICY that are in range make a POLICY group in range (R18). -/
theorem PolicyLaw_ofFields {f : PolicyFields} (h : policyField f = none) : PolicyLaw (policyGroup f) := by
  unfold policyField at h
  rw [firstFailing_append, firstFailing_append, Option.or_eq_none_iff, Option.or_eq_none_iff, firstFailing_none] at h
  obtain ⟨⟨h, hc⟩, hs⟩ := h
  have hc0 := (firstFailing_none.1 hc) _ (List.mem_map_of_mem (List.mem_finRange (kindIndex .ready)))
  have hs0 := (firstFailing_none.1 hs) _ (List.mem_map_of_mem (List.mem_finRange (kindIndex .ready)))
  simp only [List.forall_mem_cons, within_iff, Nat.zero_le, true_and] at h
  obtain ⟨h1, h2, h3, h4, h5, h6, h7, h8, -⟩ := h
  refine ⟨h1, h2, h3, h4, h5, h6, h7, h8, ?_, ?_⟩
  · cases e : f.classes[kindIndex .ready] <;> simp_all [policyGroup]
  · cases e : f.silences[kindIndex .ready] <;> simp_all [policyGroup]

/-- A window whose fields are in range has a class that R19 allows. -/
theorem windowOf_inRange {f : WindowFields} (h : windowField f = none) : (windowOf f).cls ≠ .normal := by
  unfold windowField at h
  have k := (firstFailing_none.1 h) (5, f.cls.any (· ≠ .normal)) (by simp)
  unfold windowOf
  cases hc : f.cls <;> simp_all

/-- The plan store after a reset keeps its law. -/
theorem PlanLaw_reset (c : ResetCause) (p : List Instr) : PlanLaw (State.afterReset c p).plan := by
  have hp : PolicyLaw defaultPolicy := by unfold PolicyLaw; decide
  have hw : ∀ w ∈ (Vector.replicate 8 offWindow).toList, w.cls ≠ .normal := by decide
  refine ⟨?_, ?_, hp, hp, hw, hw⟩
  · intro h
    cases h
  · intro g h
    cases h

@[simp] theorem takeStageArray_planLaw (tag : Tag) (g : ArrayGroup) (s : State) :
    (PlanLaw s.plan → PlanLaw (takeStageArray tag g s).plan) := by
  rintro ⟨h1, h2, h3, h4, h5, h6⟩
  unfold takeStageArray checked
  split
  · simpa using ⟨h1, h2, h3, h4, h5, h6⟩
  · next hf => 
    simp only [answer_frame, setPlan]
    exact ⟨fun _ => hf, h2, h3, h4, h5, h6⟩

@[simp] theorem takeStagePolicy_planLaw (tag : Tag) (f : PolicyFields) (s : State) :
    (PlanLaw s.plan → PlanLaw (takeStagePolicy tag f s).plan) := by
  rintro ⟨h1, h2, h3, h4, h5, h6⟩
  unfold takeStagePolicy checked
  split
  · simpa using ⟨h1, h2, h3, h4, h5, h6⟩
  · next hf =>
    simp only [answer_frame, setPlan]
    exact ⟨h1, h2, PolicyLaw_ofFields hf, h4, h5, h6⟩

@[simp] theorem takeStageWindow_planLaw (tag : Tag) (f : WindowFields) (s : State) :
    (PlanLaw s.plan → PlanLaw (takeStageWindow tag f s).plan) := by
  rintro ⟨h1, h2, h3, h4, h5, h6⟩
  unfold takeStageWindow checked
  split
  · simpa using ⟨h1, h2, h3, h4, h5, h6⟩
  · next hf =>
    simp only [answer_frame, setPlan]
    refine ⟨h1, h2, h3, h4, fun w hw => ?_, h6⟩
    simp only [putAt, Vector.setIfInBounds, Vector.toList, Array.toList_setIfInBounds] at hw
    rcases List.mem_or_eq_of_mem_set hw with hw | rfl
    · exact h5 w hw
    · exact windowOf_inRange hf

@[simp] theorem takeCommit_planLaw (tag : Tag) (names : Groups) (s : State) :
    (PlanLaw s.plan → PlanLaw (takeCommit tag names s).plan) := by
  rintro ⟨h1, h2, h3, h4, h5, h6⟩
  unfold takeCommit
  split
  · simpa using ⟨h1, h2, h3, h4, h5, h6⟩
  · next hr =>
    have e : (latch names s).plan = latched names s.plan := by
      unfold latch
      dsimp only
      (repeat' split) <;> simp [setPlan]
    rw [(answer_frame _ _ _ _ _).2.2.1, e]
    refine ⟨h1, fun g hg => ?_, h3, ?_, h5, ?_⟩
    · by_cases ha : names.array = true
      · obtain rfl : s.plan.stagedArray = g := by simpa [latched, ha] using hg
        have k : stagedCheck s.plan = none := by
          unfold commitRefusal at hr
          cases hk : stagedCheck s.plan with
          | none => rfl
          | some n =>
            simp only [ha, hk, if_true] at hr
            (repeat' split at hr) <;> simp at hr
        unfold stagedCheck at k
        split at k
        · next hv => exact ⟨h1 hv, k⟩
        · cases k
      · exact h2 g (by simpa [latched, ha] using hg)
    · by_cases hp : names.policy = true <;> simp [latched, hp, h3, h4]
    · by_cases hp : names.windows = true
      · simpa [latched, hp] using h5
      · simpa [latched, hp] using h6

@[simp] theorem handToOwner_queueLaw (tag : Tag) (r : Request) (s : State) (new : tagOutstanding s tag = false) :
    (QueueLaw s.queue → QueueLaw (handToOwner tag r s).queue) ∧ (PlanLaw s.plan → PlanLaw (handToOwner tag r s).plan) := by
  refine ⟨fun h => ?_, fun h => ?_⟩ <;> cases r
  all_goals first
    | exact h
    | exact withBody_law (P := fun t => QueueLaw t.queue) h fun b => by simp [h, new]
    | exact withBody_law (P := fun t => PlanLaw t.plan) h fun b => by simp [h]
    | simpa [handToOwner] using h
    | exact ⟨Nat.zero_le _, List.nodup_nil⟩
    | exact PlanLaw_reset _ _

/-- What dispatch's refusals, a reset, the receiver's bookkeeping and the requests' owners keep is kept by what arrives on the control
link (R175, R176). -/
theorem receive_keeps {P : State → Prop} (link : ∀ s l, P s → P (setLink l s)) (error : ∀ s why type, P s → P (raiseLinkError why type s))
    (refused : ∀ s tag type why, P s → P (refuse tag type why s)) (reset : ∀ s, P s → P (State.afterReset .command s.pending))
    (owner : ∀ s tag r, P s → tagOutstanding s tag = false → P (handToOwner tag r s)) :
    (∀ x s, P s → P (receive x s)) ∧ ∀ s, P s → P (takeHeld s) := by
  have d : ∀ tag r s, P s → P (dispatch tag r s) := by
    intro tag r s h
    unfold dispatch
    split
    · exact refused _ _ _ _ h
    · exact reset _ h
    · split
      · exact refused _ _ _ _ h
      · next ht =>
        split
        · exact refused _ _ _ _ h
        · exact owner _ _ _ h (by simpa using ht)
  have b : ∀ n bs s, P s → P (searchBytes n bs s) := by
    intro n
    induction n with
    | zero => exact fun bs s h => link _ _ h
    | succ n ih =>
      intro bs s h
      unfold searchBytes
      split
      · exact link _ _ h
      · exact ih _ _ (error _ _ _ h)
      · dsimp only
        split
        · exact d _ _ _ (link _ _ h)
        · split
          · exact link _ _ (d _ _ _ (link _ _ h))
          · exact ih _ _ (d _ _ _ (link _ _ h))
  have i : ∀ x s, P s → P (takeInbound x s) := by
    intro x s h
    unfold takeInbound
    split
    · split
      · exact b _ _ _ (link _ _ h)
      · exact d _ _ _ (link _ _ h)
    · exact b _ _ _ h
  refine ⟨fun x s h => ?_, fun s h => ?_⟩
  · unfold receive
    split
    · exact link _ _ h
    · exact i _ _ h
  · unfold takeHeld
    split
    · exact h
    · split
      · exact h
      · exact i _ _ (link _ _ h)

@[simp] theorem receive_queueLaw (x : Inbound) (s : State) :
    (QueueLaw s.queue → QueueLaw (receive x s).queue) ∧ (PlanLaw s.plan → PlanLaw (receive x s).plan) :=
  ⟨(receive_keeps (P := fun t => QueueLaw t.queue) (fun _ _ h => h) (fun _ _ _ h => by simpa using h) (fun _ _ _ _ h => by simpa using h)
      (fun _ _ => ⟨Nat.zero_le _, List.nodup_nil⟩) (fun s tag r h new => (handToOwner_queueLaw tag r s new).1 h)).1 x s,
    (receive_keeps (P := fun t => PlanLaw t.plan) (fun _ _ h => h) (fun _ _ _ h => by simpa using h) (fun _ _ _ _ h => by simpa using h)
      (fun _ _ => PlanLaw_reset _ _) (fun s tag r h new => (handToOwner_queueLaw tag r s new).2 h)).1 x s⟩

@[simp] theorem takeHeld_queueLaw (s : State) :
    (QueueLaw s.queue → QueueLaw (takeHeld s).queue) ∧ (PlanLaw s.plan → PlanLaw (takeHeld s).plan) :=
  ⟨(receive_keeps (P := fun t => QueueLaw t.queue) (fun _ _ h => h) (fun _ _ _ h => by simpa using h) (fun _ _ _ _ h => by simpa using h)
      (fun _ _ => ⟨Nat.zero_le _, List.nodup_nil⟩) (fun s tag r h new => (handToOwner_queueLaw tag r s new).1 h)).2 s,
    (receive_keeps (P := fun t => PlanLaw t.plan) (fun _ _ h => h) (fun _ _ _ h => by simpa using h) (fun _ _ _ _ h => by simpa using h)
      (fun _ _ => PlanLaw_reset _ _) (fun s tag r h new => (handToOwner_queueLaw tag r s new).2 h)).2 s⟩

@[simp] theorem useGrant_queueLaw (g : ArrayGroup) (op : OpName) (s : State) :
    (QueueLaw s.queue → QueueLaw (useGrant g op s).queue) := by
  intro h
  unfold useGrant
  try dsimp only
  (repeat' split) <;> first | (simp (maxDischargeDepth := 30) [h]; done) | exact h

@[simp] theorem takeLockGrant_queueLaw (op : OpName) (s : State) :
    (QueueLaw s.queue → QueueLaw (takeLockGrant op s).queue) := by
  refine fun h => ?_ <;> unfold takeLockGrant <;> split
  all_goals first
    | exact h
    | (next ht =>
        have e := takeGrant_frame ht
        first
          | (simp (maxDischargeDepth := 30) [e, h]; done)
          | (split <;> first | (simp (maxDischargeDepth := 30) [e, h]; done) | exact h))

@[simp] theorem useReservation_queueLaw (g : ArrayGroup) (op : OpName) (s : State) :
    (QueueLaw s.queue → QueueLaw (useReservation g op s).queue) := by
  intro h
  unfold useReservation
  try dsimp only
  (repeat' split) <;> first | (simp (maxDischargeDepth := 30) [h]; done) | exact h

@[simp] theorem takeBuffers_queueLaw (op : OpName) (s : State) :
    (QueueLaw s.queue → QueueLaw (takeBuffers op s).queue) := by
  refine fun h => ?_ <;> unfold takeBuffers <;> split
  all_goals first
    | exact h
    | (next ht =>
        have e := takeReservation_frame ht
        first
          | (simp (maxDischargeDepth := 30) [e, h]; done)
          | (split <;> first | (simp (maxDischargeDepth := 30) [e, h]; done) | exact h))

@[simp] theorem fgRead_queueLaw (tag : Tag) (c : Chan) (s : State) :
    (QueueLaw s.queue → QueueLaw (fgRead tag c s).queue) := by
  refine fun h => ?_ <;> unfold fgRead <;> split
  all_goals first
    | exact h
    | (next ht =>
        have e := takeEnding_frame ht
        first
          | (simp (maxDischargeDepth := 30) [e, h]; done)
          | (split <;> first | (simp (maxDischargeDepth := 30) [e, h]; done) | exact h))

@[simp] theorem fgWrite_queueLaw (tag : Tag) (c : Chan) (s : State) :
    (QueueLaw s.queue → QueueLaw (fgWrite tag c s).queue) := by
  refine fun h => ?_ <;> unfold fgWrite <;> split
  all_goals first
    | exact h
    | (next ht =>
        have e := takeEnding_frame ht
        first
          | (simp (maxDischargeDepth := 30) [e, h]; done)
          | (split <;> first | (simp (maxDischargeDepth := 30) [e, h]; done) | exact h))

end Sys2Proof.Machine
end

