-- ==== Sys2Proof/Laws/PerInstr.lean ====
section
/-! SUPPORT. Of every command as syntax: a well-formed command that carries a record carries one of a known type exactly where it is not
the record of an unknown type. -/

namespace Sys2Proof.Laws.CommandShape
set_option Elab.async false
open Sys2Proof Sys2Proof.Machine

/-- The record that a well-formed command carries has a type of section 11.3, unless it is the record of an unknown type (R176, R178). -/
def Statement (i : Instr) : Prop :=
  i.wellFormed = true → ∀ tag r, i.record = some (tag, r) → (knownType (typeCode r) = true ↔ ∀ type, r ≠ .unknown type)

/-- The law of any command, by cases on the command. -/
theorem holds (i : Instr) : Statement i := by
  intro h t r e
  cases i <;> simp only [Instr.record, Option.some.injEq, Prod.mk.injEq, reduceCtorEq] at e
  case unknownTypeRecord => obtain ⟨rfl, rfl⟩ := e; simpa [Instr.wellFormed, typeCode] using h
  all_goals obtain ⟨rfl, rfl⟩ := e
  all_goals simp [typeCode, knownType]

theorem powerOnReset : Statement (.powerOnReset) := holds _

theorem reset (tag : Tag) : Statement (.reset tag) := holds _

theorem identify (tag : Tag) (body : Option Unit) : Statement (.identify tag body) := holds _

theorem stageArray (tag : Tag) (body : Option ArrayGroup) : Statement (.stageArray tag body) := holds _

theorem stagePolicy (tag : Tag) (body : Option PolicyFields) : Statement (.stagePolicy tag body) := holds _

theorem stageWindow (tag : Tag) (body : Option WindowFields) : Statement (.stageWindow tag body) := holds _

theorem commit (tag : Tag) (body : Option Groups) : Statement (.commit tag body) := holds _

theorem querySession (tag : Tag) (body : Option Unit) : Statement (.querySession tag body) := holds _

theorem queryPlan (tag : Tag) (body : Option Unit) : Statement (.queryPlan tag body) := holds _

theorem queryExtents (tag : Tag) (body : Option IndexSpan) : Statement (.queryExtents tag body) := holds _

theorem queryLosses (tag : Tag) (body : Option IndexSpan) : Statement (.queryLosses tag body) := holds _

theorem queryChannels (tag : Tag) (body : Option Unit) : Statement (.queryChannels tag body) := holds _

theorem queryRate (tag : Tag) (body : Option Unit) : Statement (.queryRate tag body) := holds _

theorem queryMonitors (tag : Tag) (body : Option Unit) : Statement (.queryMonitors tag body) := holds _

theorem start (tag : Tag) (body : Option Unit) : Statement (.start tag body) := holds _

theorem restore (tag : Tag) (body : Option Unit) : Statement (.restore tag body) := holds _

theorem pause (tag : Tag) (body : Option Unit) : Statement (.pause tag body) := holds _

theorem continueSession (tag : Tag) (body : Option Unit) : Statement (.continueSession tag body) := holds _

theorem abort (tag : Tag) (body : Option Unit) : Statement (.abort tag body) := holds _

theorem release (tag : Tag) (body : Option Unit) : Statement (.release tag body) := holds _

theorem setRate (tag : Tag) (body : Option Nat) : Statement (.setRate tag body) := holds _

theorem setMonitor (tag : Tag) (body : Option MonitorFields) : Statement (.setMonitor tag body) := holds _

theorem readBlocks (tag : Tag) (body : Option RunFields) : Statement (.readBlocks tag body) := holds _

theorem writeBlocks (tag : Tag) (body : Option WriteFields) : Statement (.writeBlocks tag body) := holds _

theorem unknownTypeRecord (type : Byte) (tag : Tag) : Statement (.unknownTypeRecord type tag) := holds _

theorem linkError (bytes : List Byte) : Statement (.linkError bytes) := holds _

theorem heldRecordDispatch : Statement (.heldRecordDispatch) := holds _

theorem recordSent : Statement (.recordSent) := holds _

theorem stripCompletion (chan : Chan) (number : Word32) (status : StripStatus) : Statement (.stripCompletion chan number status) := holds _

theorem linkDown (chan : Chan) : Statement (.linkDown chan) := holds _

theorem linkUp (chan : Chan) : Statement (.linkUp chan) := holds _

theorem commandTimeout (chan : Chan) (number : Word32) : Statement (.commandTimeout chan number) := holds _

theorem commandIssue (chan : Chan) : Statement (.commandIssue chan) := holds _

theorem channelFailedTold (chan : Chan) : Statement (.channelFailedTold chan) := holds _

theorem claim (lane : Lane) : Statement (.claim lane) := holds _

theorem claimAnswer (lane : Lane) : Statement (.claimAnswer lane) := holds _

theorem lockGrant (op : OpName) : Statement (.lockGrant op) := holds _

theorem bufferReservation (op : OpName) : Statement (.bufferReservation op) := holds _

theorem laneReadCompletion (lane : Lane) (chan : Chan) : Statement (.laneReadCompletion lane chan) := holds _

theorem laneWriteCompletion (lane : Lane) : Statement (.laneWriteCompletion lane) := holds _

theorem fgReadCompletion (tag : Tag) (chan : Chan) : Statement (.fgReadCompletion tag chan) := holds _

theorem fgWriteCompletion (tag : Tag) (chan : Chan) : Statement (.fgWriteCompletion tag chan) := holds _

theorem checkpointTrigger : Statement (.checkpointTrigger) := holds _

theorem periodTimerExpiry : Statement (.periodTimerExpiry) := holds _

theorem checkpointWriteCompletion : Statement (.checkpointWriteCompletion) := holds _

theorem checkpointReadCompletion : Statement (.checkpointReadCompletion) := holds _

theorem drainEnd : Statement (.drainEnd) := holds _

theorem governSignal : Statement (.governSignal) := holds _

theorem quietTimerExpiry : Statement (.quietTimerExpiry) := holds _

end Sys2Proof.Laws.CommandShape
end

