-- ==== Sys2Proof/Laws/Service.lean ====
section
/-! SUPPORT. What the shared services of the device can do, said once: the service of a lock FIFO and of the buffer wait queue, the lock
table's entries, the presence of slots, the spans of reads, and the judgements that Safety.lean states as properties. -/

namespace Sys2Proof.Machine
open Sys2Proof

/-! ## Locks -/

theorem compatible_iff_mayJoin {m : LockMode} {hs : List LockPair} : compatible m hs = true ↔ MayJoin m hs := by
  unfold compatible MayJoin
  simp only [List.all_eq_true]
  refine forall_congr' fun h => forall_congr' fun _ => ?_
  cases m <;> cases h.mode <;> simp [modesAgree]

/-- What the service of a lock FIFO answers: the holders with those granted, the rest of the FIFO, and the operations granted. -/
theorem serveFifo_served (hs ws : List LockPair) :
    ∃ granted, FifoServed hs ws granted (serveFifo hs ws).2.1 ∧ (serveFifo hs ws).1 = hs ++ granted
      ∧ (serveFifo hs ws).2.2 = granted.map (·.op) := by
  induction ws generalizing hs with
  | nil => exact ⟨[], ⟨rfl, by simp, by simp [serveFifo]⟩, by simp [serveFifo], rfl⟩
  | cons w ws ih =>
    unfold serveFifo
    split
    · next hc =>
      obtain ⟨gr, ⟨h1, h2, h3⟩, h4, h5⟩ := ih (hs ++ [w])
      refine ⟨w :: gr, ⟨by simpa using h1, ?_, ?_⟩, by simpa using h4, by simpa using h5⟩
      · intro b x a e
        cases b with
        | nil =>
          simp only [List.nil_append, List.cons.injEq] at e
          rw [← e.1]; simpa using compatible_iff_mayJoin.1 hc
        | cons y b =>
          simp only [List.cons_append, List.cons.injEq] at e
          obtain ⟨rfl, e⟩ := e
          simpa using h2 b x a e
      · intro x a e
        simpa using h3 x a e
    · next hc =>
      refine ⟨[], ⟨rfl, by simp, ?_⟩, by simp, rfl⟩
      intro x a e
      simp only [List.cons.injEq] at e
      rw [← e.1]; simpa using fun h => hc (compatible_iff_mayJoin.2 h)

/-- The lock table's entry for a stripe whose entry is replaced: none if it is out of use. -/
theorem lockEntry_putEntry_same {e : LockEntry} {ls : List LockEntry} (h : ∃ f ∈ ls, f.stripe = e.stripe) :
    lockEntry? (putEntry e ls) e.stripe = if e.holders = [] ∧ e.waiters = [] then none else some e := by
  unfold putEntry
  split
  · unfold lockEntry?
    rw [List.find?_eq_none]
    intro x hx; simp at hx; simp [hx.2]
  · unfold lockEntry?
    obtain ⟨f, hf, he⟩ := h
    induction ls with
    | nil => simp at hf
    | cons a ls ih =>
      simp only [List.map_cons, List.find?_cons]
      by_cases ha : a.stripe = e.stripe
      · simp [ha]
      · simp only [ha, if_false, decide_false]
        rcases List.mem_cons.1 hf with rfl | hf
        · exact absurd he ha
        · exact ih hf

/-- The lock table's entry for another stripe. -/
theorem lockEntry_putEntry_other {e : LockEntry} {ls : List LockEntry} {n : Nat} (h : n ≠ e.stripe) :
    lockEntry? (putEntry e ls) n = lockEntry? ls n := by
  unfold putEntry lockEntry?
  split
  · induction ls with
    | nil => rfl
    | cons a ls ih =>
      simp only [List.filter_cons, List.find?_cons]
      by_cases ha : a.stripe = e.stripe
      · simp only [ne_eq, ha, not_true_eq_false, decide_false, Bool.false_eq_true, if_false, ih, (Ne.symm h)]
      · simp only [ne_eq, ha, not_false_eq_true, decide_true, if_true, List.find?_cons]
        split <;> simp_all
  · induction ls with
    | nil => rfl
    | cons a ls ih =>
      simp only [List.map_cons, List.find?_cons]
      by_cases ha : a.stripe = e.stripe
      · simp only [ha, if_true, ih, Ne.symm h, decide_false]
      · simp [ha, ih]

theorem lockEntry_mem {ls : List LockEntry} {n : Nat} {e : LockEntry} (h : lockEntry? ls n = some e) : e.stripe = n ∧ e ∈ ls :=
  ⟨by simpa using List.find?_some h, List.mem_of_find?_eq_some h⟩

/-! ## Buffers -/

/-- What the service of one class of the buffer wait queue answers: the operations reserved, the rest of the class, and the pool. -/
theorem serveClass_served (rs : List BufferRequest) (p : BufferPool) :
    ∃ granted, ClassServed p.free.length rs granted (serveClass rs p).2.1
      ∧ (serveClass rs p).1 = granted.map (·.op)
      ∧ (serveClass rs p).2.2.free = p.free.drop (buffersAsked granted)
      ∧ (serveClass rs p).2.2.held.map (fun h => (h.op, h.ids.length)) =
          p.held.map (fun h => (h.op, h.ids.length)) ++ granted.map (fun r => (r.op, r.count))
      ∧ (serveClass rs p).2.2.fgWait = p.fgWait ∧ (serveClass rs p).2.2.laneWait = p.laneWait := by
  induction rs generalizing p with
  | nil => exact ⟨[], ⟨rfl, by simp [buffersAsked], by simp [serveClass]⟩, rfl, by simp [serveClass, buffersAsked], by simp [serveClass],
      rfl, rfl⟩
  | cons r rs ih =>
    unfold serveClass
    split
    · next hf =>
      have hf' : r.count ≤ p.free.length := by simpa [fits] using hf
      obtain ⟨gr, ⟨h1, h2, h3⟩, h4, h5, h6, h7, h8⟩ := ih (reserve r p)
      have hl : (reserve r p).free.length = p.free.length - r.count := by simp [reserve]
      rw [hl] at h2 h3
      refine ⟨r :: gr, ⟨by simpa using h1, ?_, ?_⟩, by simpa using h4, ?_, ?_, h7, h8⟩
      · simp only [buffersAsked, List.map_cons, List.sum_cons] at h2 ⊢; omega
      · intro x a e
        have := h3 x a e
        simp only [buffersAsked, List.map_cons, List.sum_cons] at this ⊢; omega
      · rw [h5]; simp only [reserve, List.drop_drop, buffersAsked, List.map_cons, List.sum_cons]
      · rw [h6]; simp [reserve, hf']
    · next hf =>
      have hf' : ¬ r.count ≤ p.free.length := by simpa [fits] using hf
      refine ⟨[], ⟨rfl, by simp [buffersAsked], ?_⟩, rfl, by simp [buffersAsked], by simp, rfl, rfl⟩
      intro x a e
      simp only [List.cons.injEq] at e
      simp only [buffersAsked, List.map_nil, List.sum_nil]; rw [← e.1]; omega

/-- What the service of the buffer wait queue answers: the foreground class is served, and with that class empty the lane class. -/
theorem servePool_served (p : BufferPool) :
    ∃ fgNow laneNow, ClassServed p.free.length p.fgWait fgNow (servePool p).2.fgWait
      ∧ ((servePool p).2.fgWait ≠ [] → laneNow = [] ∧ (servePool p).2.laneWait = p.laneWait)
      ∧ ((servePool p).2.fgWait = [] → ClassServed (p.free.length - buffersAsked fgNow) p.laneWait laneNow (servePool p).2.laneWait)
      ∧ (servePool p).2.free.length = p.free.length - buffersAsked fgNow - buffersAsked laneNow
      ∧ (servePool p).2.held.map (fun h => (h.op, h.ids.length)) =
          p.held.map (fun h => (h.op, h.ids.length)) ++ (fgNow ++ laneNow).map (fun r => (r.op, r.count))
      ∧ (servePool p).1 = (fgNow ++ laneNow).map (·.op) := by
  obtain ⟨gr, h1, h2, h3, h4, h5, h6⟩ := serveClass_served p.fgWait p
  unfold servePool
  dsimp only
  split
  · next he =>
    obtain ⟨gr', k1, k2, k3, k4, -, -⟩ := serveClass_served p.laneWait (serveClass p.fgWait p).2.2
    rw [h3, List.length_drop] at k1
    refine ⟨gr, gr', by rw [he] at h1; exact h1, by simp, fun _ => k1, by simp only [k3, h3, List.length_drop],
      by rw [List.map_append, ← List.append_assoc, ← h4]; exact k4, by rw [List.map_append, ← h2, ← k2]⟩
  · next he =>
    exact ⟨gr, [], h1, fun _ => ⟨rfl, h6⟩, fun h => absurd h he, by simp [h3, buffersAsked], by simp [h4], by simp [h2]⟩

/-! ## The extent table and the slots -/

theorem windowMatches_iff (w : Window) (x : Nat) : windowMatches w x = true ↔ Matches w x := by
  unfold windowMatches Matches
  simp only [Bool.and_eq_true, decide_eq_true_eq]
  refine and_congr_right fun _ => ?_
  rw [BitVec.eq_of_getLsbD_eq_iff]
  simp only [BitVec.getLsbD_and, BitVec.getLsbD_ofNat]
  refine forall_congr' fun b => forall_congr' fun hb => ?_
  cases h : w.mask.getLsbD b <;> simp [hb]

theorem spareInUse_iff (st : SessionState) : spareInUse st = true ↔ SpareUsed st := by
  cases st <;> simp [spareInUse, SpareUsed]

/-- The channel of a present slot is one that serves it and is ONLINE (R12, R13). -/
theorem presentChan_some_iff (g : ArrayGroup) (rebuilt : Bool) (s : State) (j : Nat) (c : Chan) :
    presentChan g rebuilt s j = some c ↔ Serves g rebuilt j c ∧ s.chans[c].failed = false := by
  unfold presentChan servingChan Serves
  by_cases hj : j = g.failedSlot
  · cases rebuilt <;> simp [hj, Option.filter_some]
    constructor
    · rintro ⟨h, rfl⟩; exact ⟨rfl, h⟩
    · rintro ⟨rfl, h⟩; exact ⟨h, rfl⟩
  · simp [hj, Option.filter_some]
    constructor
    · rintro ⟨h, rfl⟩; exact ⟨rfl, h⟩
    · rintro ⟨rfl, h⟩; exact ⟨h, rfl⟩

theorem presentChan_none_iff (g : ArrayGroup) (rebuilt : Bool) (s : State) (j : Nat) :
    presentChan g rebuilt s j = none ↔ Missing g rebuilt s j := by
  rw [Option.eq_none_iff_forall_ne_some]
  unfold Missing
  refine forall_congr' fun c => ?_
  rw [Ne, presentChan_some_iff]
  cases s.chans[c].failed <;> simp

/-- The least and the greatest element that folds find. -/
theorem foldl_min_spec (ks : List Nat) (k : Nat) : ks.foldl min k ∈ k :: ks ∧ ∀ x ∈ k :: ks, ks.foldl min k ≤ x := by
  induction ks generalizing k with
  | nil => simp
  | cons a ks ih =>
    obtain ⟨h1, h2⟩ := ih (min k a)
    have h0 := h2 (min k a) (by simp)
    rw [List.foldl_cons]
    refine ⟨?_, fun x hx => ?_⟩
    · rcases List.mem_cons.1 h1 with h | h
      · rw [h]; rcases min_choice k a with e | e <;> rw [e] <;> simp
      · simp [h]
    · rcases List.mem_cons.1 hx with rfl | hx
      · omega
      · rcases List.mem_cons.1 hx with rfl | hx
        · omega
        · exact h2 x (by simp [hx])

theorem foldl_max_spec (ks : List Nat) (k : Nat) : ks.foldl max k ∈ k :: ks ∧ ∀ x ∈ k :: ks, x ≤ ks.foldl max k := by
  induction ks generalizing k with
  | nil => simp
  | cons a ks ih =>
    obtain ⟨h1, h2⟩ := ih (max k a)
    have h0 := h2 (max k a) (by simp)
    rw [List.foldl_cons]
    refine ⟨?_, fun x hx => ?_⟩
    · rcases List.mem_cons.1 h1 with h | h
      · rw [h]; rcases max_choice k a with e | e <;> rw [e] <;> simp
      · simp [h]
    · rcases List.mem_cons.1 hx with rfl | hx
      · omega
      · rcases List.mem_cons.1 hx with rfl | hx
        · omega
        · exact h2 x (by simp [hx])

/-- The span of some positions begins and ends with one of them, and holds them all (R119). -/
theorem spanOf_spec (l : List Nat) :
    (spanOf l = none ↔ l = []) ∧ ∀ first count, spanOf l = some (first, count) →
      first ∈ l ∧ (∃ k ∈ l, k + 1 = first + count) ∧ ∀ k ∈ l, first ≤ k ∧ k < first + count := by
  cases l with
  | nil => simp [spanOf]
  | cons k ks =>
    refine ⟨by simp [spanOf], fun first count h => ?_⟩
    simp only [spanOf, Option.some.injEq, Prod.mk.injEq] at h
    obtain ⟨a1, a2⟩ := foldl_min_spec ks k
    obtain ⟨b1, b2⟩ := foldl_max_spec ks k
    have := a2 _ b1
    obtain ⟨rfl, rfl⟩ := h
    refine ⟨a1, ⟨_, b1, by omega⟩, fun x hx => ⟨a2 x hx, ?_⟩⟩
    have := b2 x hx; omega

end Sys2Proof.Machine
end

