-- ==== Sys2Proof/Laws/State.lean ====
section
/-! SUPPORT. What each setter of State writes, one lemma for each field it writes. What the setters leave unchanged is in the Frames files. -/

namespace Sys2Proof.Machine
open Sys2Proof

/-! ## One block's record is replaced -/

@[simp] theorem setLane_lanes (l : Lane) (r : LaneRec) (s : State) : (setLane l r s).lanes = s.lanes.set l r := rfl

@[simp] theorem setChan_chans (c : Chan) (r : ChannelRec) (s : State) : (setChan c r s).chans = s.chans.set c r := rfl

@[simp] theorem setWriter_writer (w : Writer) (s : State) : (setWriter w s).writer = w := rfl

@[simp] theorem setLosses_losses (ls : List LossRec) (s : State) : (setLosses ls s).losses = ls := rfl

@[simp] theorem setPlan_plan (p : PlanStore) (s : State) : (setPlan p s).plan = p := rfl

@[simp] theorem setLink_link (l : ControlLink) (s : State) : (setLink l s).link = l := rfl

@[simp] theorem setExtent_extents (x : Nat) (r : ExtentRec) (s : State) :
    (setExtent x r s).table.extents = s.table.extents.set x r := rfl

@[simp] theorem setExtent_ahead (x : Nat) (r : ExtentRec) (s : State) : (setExtent x r s).table.ahead = s.table.ahead := rfl

@[simp] theorem setExtent_holdWaiting (x : Nat) (r : ExtentRec) (s : State) :
    (setExtent x r s).table.holdWaiting = s.table.holdWaiting := rfl

@[simp] theorem setEntry_queue (e : FgEntry) (s : State) :
    (setEntry e s).queue = s.queue.map fun f => if f.tag = e.tag then e else f := rfl

/-! ## The session -/

@[simp] theorem setSession_state (st : SessionState) (s : State) : (setSession st s).session.state = st := rfl

@[simp] theorem setSession_longOp (st : SessionState) (s : State) : (setSession st s).session.longOp = s.session.longOp := rfl

@[simp] theorem beginLong_longOp (k : LongKind) (tag : Tag) (s : State) :
    (beginLong k tag s).session.longOp = some { kind := k, tag } := rfl

@[simp] theorem beginLong_state (k : LongKind) (tag : Tag) (s : State) : (beginLong k tag s).session.state = s.session.state := rfl

@[simp] theorem startPeriod_writer (s : State) :
    (startPeriod s).writer = { s.writer with period := some (s.now + s.plan.policy.periodS * 1000) } := rfl

@[simp] theorem stopPeriod_writer (s : State) : (stopPeriod s).writer = { s.writer with period := none } := rfl

@[simp] theorem quietWriter_writer (s : State) :
    (quietWriter s).writer = { s.writer with period := none, again := false, waiting := none } := rfl

/-! ## What is handed over -/

@[simp] theorem handEnding_endings (c : Chan) (cmd : StripCmd) (e : EndStatus) (s : State) :
    (handEnding c cmd e s).mail.endings = s.mail.endings ++ [{ chan := c, cmd, status := e }] := rfl

@[simp] theorem tellSession_told (c : Chan) (r : Role) (s : State) :
    (tellSession c r s).mail.told = s.mail.told ++ [{ chan := c, role := r }] := rfl

@[simp] theorem handTrigger_triggers (s : State) : (handTrigger s).mail.triggers = s.mail.triggers + 1 := rfl

@[simp] theorem signalGovernor_signals (s : State) : (signalGovernor s).mail.signals = s.mail.signals + 1 := rfl

/-! ## The control link -/

theorem raiseNotice_link (k : NoticeKind) (subject : Nat) (v : NoticeValue) (s : State) :
    (raiseNotice k subject v s).link = kick s.plan.policy (takeOccurrence s.plan.policy k subject v s.link) := rfl

theorem handReply_link (r : Reply) (s : State) :
    (handReply r s).link = kick s.plan.policy { s.link with replies := s.link.replies ++ [r] } := rfl

@[simp] theorem backToHunt_gathered (s : State) : (backToHunt s).link.gathered = [] := rfl

@[simp] theorem backToHunt_hunting (s : State) : (backToHunt s).link.hunting = .hunt := rfl

/-! ## One channel of the replaced ones -/

@[simp] theorem setChan_get (c : Chan) (r : ChannelRec) (s : State) : (setChan c r s).chans[c] = r := by simp [setChan]

theorem setChan_get_ne {c k : Chan} (h : k ≠ c) (r : ChannelRec) (s : State) : (setChan c r s).chans[k] = s.chans[k] := by
  have : c.val ≠ k.val := fun e => h (Fin.ext e.symm)
  simp [setChan, Vector.getElem_set_ne, this]

end Sys2Proof.Machine
end

