-- ==== Sys2Proof/Laws/Woken.lean ====
section
/-! SUPPORT. What the evaluation of the hold-waiting flag, the waking of lanes and the fill range do, said as Safety.lean states them (R71,
R83, R91, R92). -/

namespace Sys2Proof.Machine
open Sys2Proof

/-! ## The hold-waiting flag -/

/-- A candidate is PENDING or PARTIAL and its class is not HOLD. -/
theorem isCandidate_iff {r : ExtentRec} : r.isCandidate = true ↔ r.waits = true ∧ r.cls ≠ .hold := by simp [ExtentRec.isCandidate]

/-- An extent is DONE, or ACTIVE, or PENDING or PARTIAL. -/
theorem waits_iff {r : ExtentRec} : r.waits = true ↔ r.state = .pending ∨ ∃ c, r.state = .partDone c := by
  unfold ExtentRec.waits
  cases r.state <;> simp

/-- The condition of the flag says that held work alone is left. -/
theorem holdCondition_iff {t : ExtentTable} : holdCondition t = true ↔ HeldWorkAlone t := by
  have e (r : ExtentRec) : (r.state = .done ∨ r.waits = true ∧ r.cls = .hold) ↔ r.isActive = false ∧ r.isCandidate = false := by
    rcases r with ⟨st, cls⟩
    cases st <;> simp [ExtentRec.isCandidate, ExtentRec.isActive, ExtentRec.waits]
  have d (r : ExtentRec) (h : r.isActive = false) : r.waits = true ↔ r.state ≠ .done := by
    rcases r with ⟨st, cls⟩
    cases st <;> simp_all [ExtentRec.isActive, ExtentRec.waits]
  unfold holdCondition HeldWorkAlone candidateExists
  simp only [← waits_iff, e, Bool.and_eq_true, List.any_eq_true, Bool.not_eq_true', List.any_eq_false, Bool.not_eq_true]
  constructor
  · rintro ⟨⟨⟨r, hr, hw⟩, ha⟩, hc⟩
    exact ⟨⟨r, hr, (d r (ha r hr)).1 hw⟩, fun q hq => ⟨ha q hq, hc q hq⟩⟩
  · rintro ⟨⟨r, hr, hw⟩, h⟩
    exact ⟨⟨⟨r, hr, (d r (h r hr).1).2 hw⟩, fun q hq => (h q hq).1⟩, fun q hq => (h q hq).2⟩

/-- With held work alone left, the held extents are those not DONE. -/
theorem heldExtents_eq {t : ExtentTable} (h : HeldWorkAlone t) : heldExtents t = t.extents.countP fun r => r.state ≠ .done := by
  refine List.countP_congr fun r hr => ?_
  rcases h.2 r hr with hd | ⟨hp, -⟩
  · simp [ExtentRec.waits, hd]
  · simp only [waits_iff.2 hp, true_iff]
    rcases hp with hp | ⟨c, hp⟩ <;> simp [hp]

/-- The session states in which HOLD-WAITING is raised. -/
theorem sessionLive_iff {st : SessionState} : sessionLive st = true ↔ HoldIsTold st := by
  unfold HoldIsTold
  cases st <;> simp [sessionLive, spareInUse]

/-- An evaluation leaves the flag as the table gives it, and tells the host where it becomes set. -/
theorem evalHold_evaluated (s : State) : HoldFlagEvaluated s.table.holdWaiting (evalHold s) := by
  have x : (evalHold s).table.extents = s.table.extents := by unfold evalHold; (repeat' split) <;> simp
  have hx : HeldWorkAlone (evalHold s).table ↔ HeldWorkAlone s.table := by simp only [HeldWorkAlone, x]
  refine ⟨?_, fun was h live quiet => ?_⟩
  · rw [hx, ← holdCondition_iff]
    unfold evalHold
    (repeat' split) <;> simp_all
  · have hc := hx.1 h
    rw [x, ← heldExtents_eq hc]
    simp only [evalHold_frame] at live quiet
    unfold evalHold
    rw [if_pos (holdCondition_iff.2 hc), was]
    simp only [Bool.false_eq_true, if_false, sessionLive_iff.2 live, if_true]
    exact shown_raised quiet

/-! ## Waking -/

/-- The lowest parked lane is the first of the parked lanes. -/
theorem lowestParked_eq (ls : Vector LaneRec 4) : lowestParked ls = (parkedLanes ls).head? := by
  unfold lowestParked parkedLanes
  rw [List.head?_filter]
  congr 1
  funext l
  simp [LaneRec.working]

/-- A lane of four that is woken leaves the parked ones and joins the working ones. -/
theorem parked_claimed {s : State} {l : Lane} {rest : List Lane}
    (h : parkedLanes s.lanes = l :: rest) :
    parkedLanes (claimLane l s).lanes = rest ∧ workingLanes (claimLane l s).lanes = workingLanes s.lanes + 1 := by
  have same : ∀ k : Lane, k ≠ l → (claimLane l s).lanes[k] = s.lanes[k] := fun k hk => setLane_get_ne hk _ _
  have now : (claimLane l s).lanes[l].state = .claiming := by
    have : (claimLane l s).lanes[l] = { LaneRec.parked with state := .claiming } := setLane_get _ _ _
    rw [this]
  have nd : (List.finRange 4).Nodup := List.nodup_finRange 4
  have e1 : parkedLanes (claimLane l s).lanes = (parkedLanes s.lanes).erase l := by
    unfold parkedLanes
    rw [(nd.filter _).erase_eq_filter, List.filter_filter]
    refine List.filter_congr fun k _ => ?_
    by_cases hk : k = l
    · have : decide ((claimLane l s).lanes[k].state = .parked) = false := by rw [hk, now]; rfl
      simpa [hk] using this
    · simp [same k hk, hk]
  refine ⟨by rw [e1, h, List.erase_cons_head], ?_⟩
  have count (v : Vector LaneRec 4) : workingLanes v + (parkedLanes v).length = 4 := by
    unfold parkedLanes
    have := List.length_eq_countP_add_countP (fun k : Lane => v[k].working) (l := List.finRange 4)
    rw [List.length_finRange] at this
    rw [← List.countP_eq_length_filter]
    have c : (List.finRange 4).countP (fun k : Lane => v[k].state = .parked)
        = (List.finRange 4).countP fun k : Lane => ¬ v[k].working = true := by
      refine List.countP_congr fun k _ => ?_
      simp [LaneRec.working]
    unfold workingLanes
    rw [c]
    exact this.symm
  have a := count s.lanes
  have b := count (claimLane l s).lanes
  rw [h] at a
  rw [e1, h, List.erase_cons_head] at b
  simp only [List.length_cons] at a
  omega

/-- A lane is admitted in RUNNING with a candidate, with no lowering pending, below the effective level. -/
theorem admits_iff {s : State} : admits s = true ↔ isRunning s.session.state = true ∧ workingLanes s.lanes < s.governor.effective
    ∧ s.governor.effective ≤ s.governor.target ∧ candidateExists s.table = true := by
  simp only [admits, loweringPending, Bool.and_eq_true, decide_eq_true_eq, Bool.not_eq_true', decide_eq_false_iff_not, Nat.not_lt,
    and_assoc]

/-- One waking wakes the first of the lanes to be woken, if there is one, and leaves the rest of them. -/
theorem wokenAt_wakeOne {s : State} (run : isRunning s.session.state = true) (cand : candidateExists s.table = true)
    (free : s.governor.effective ≤ s.governor.target) :
    wokenAt s.governor.effective s = [] ∧ wakeOne s = s
      ∨ ∃ l, wokenAt s.governor.effective s = l :: wokenAt s.governor.effective (wakeOne s) ∧ wakeOne s = claimLane l s := by
  unfold wakeOne
  by_cases below : workingLanes s.lanes < s.governor.effective
  · rw [if_pos (admits_iff.2 ⟨run, below, free, cand⟩), lowestParked_eq]
    cases h : parkedLanes s.lanes with
    | nil => exact .inl ⟨by simp [wokenAt, h], rfl⟩
    | cons l rest =>
      refine .inr ⟨l, ?_, rfl⟩
      obtain ⟨hr, hw⟩ := parked_claimed h
      simp only [List.head?_cons, wokenAt, h, hr, hw]
      obtain ⟨n, hn⟩ : ∃ n, s.governor.effective - workingLanes s.lanes = n + 1 := ⟨_, (Nat.sub_add_cancel (by omega)).symm⟩
      rw [hn, List.take_succ_cons]
      congr 2
      omega
  · rw [if_neg (fun h => below (admits_iff.1 h).2.1)]
    exact .inl ⟨by simp [wokenAt, Nat.sub_eq_zero_of_le (Nat.le_of_not_lt below)], rfl⟩

/-- Waking wakes the lowest parked lanes up to the effective level, where one is admitted in RUNNING. -/
theorem wakeLanes_wakes {s : State} (run : isRunning s.session.state = true) (cand : candidateExists s.table = true)
    (free : s.governor.effective ≤ s.governor.target) : Wakes s.governor.effective s (wakeLanes s) := by
  -- what some wakings have done: a part of the lanes to be woken has been, and the rest of them is to be
  let Done (t : State) (left : Nat) : Prop := ∃ part, wokenAt s.governor.effective s = part ++ wokenAt s.governor.effective t
    ∧ (wokenAt s.governor.effective t).length ≤ left
    ∧ t.mail.claims = s.mail.claims ++ part
    ∧ (∀ l : Lane, t.lanes[l] = if l ∈ part then { LaneRec.parked with state := .claiming } else s.lanes[l])
    ∧ t.session = s.session ∧ t.table = s.table ∧ t.governor = s.governor
  have start : Done s 4 := by
    refine ⟨[], rfl, ?_, by simp, by simp, rfl, rfl, rfl⟩
    unfold wokenAt
    rw [List.length_take]
    exact (Nat.min_le_right _ _).trans ((List.length_filter_le _ _).trans (by simp))
  have one : ∀ t n, Done t (n + 1) → Done (wakeOne t) n := by
    rintro t n ⟨part, hp, hn, hc, hl, hs, ht, hg⟩
    have w := wokenAt_wakeOne (s := t) (by rw [hs]; exact run) (by rw [ht]; exact cand) (by rw [hg]; exact free)
    rw [hg] at w
    rcases w with ⟨h0, he⟩ | ⟨l, h1, he⟩
    · rw [he]
      exact ⟨part, hp, by simp [h0], hc, hl, hs, ht, hg⟩
    · refine ⟨part ++ [l], by rw [hp, h1, List.append_assoc]; rfl, ?_, ?_, ?_, ?_⟩
      · rw [h1] at hn; simpa using hn
      · rw [he]; simp [claimLane, setLane, hc]
      · intro k
        rw [he]
        by_cases hk : k = l
        · subst hk
          have : (claimLane k t).lanes[k] = { LaneRec.parked with state := .claiming } := setLane_get _ _ _
          rw [this, if_pos (List.mem_append_right _ (List.mem_singleton.2 rfl))]
        · have : (claimLane l t).lanes[k] = t.lanes[k] := setLane_get_ne hk _ _
          rw [this, hl k]
          simp [hk]
      · rw [he]; exact ⟨hs, ht, hg⟩
  obtain ⟨part, hp, hn, hc, hl, -⟩ := one _ _ (one _ _ (one _ _ (one _ _ start)))
  have h0 : wokenAt s.governor.effective (wakeLanes s) = [] := List.length_eq_zero_iff.1 (Nat.le_zero.1 hn)
  have hw : wokenAt s.governor.effective s = part := by
    rw [hp]
    exact (congrArg (part ++ ·) h0).trans (List.append_nil _)
  exact ⟨by rw [hw]; exact hc, fun l => by rw [hw]; exact hl l⟩

/-- Where no lane is admitted, none wakes. -/
theorem wakeLanes_none {s : State} (h : admits s = false) : wakeLanes s = s := by
  have : wakeOne s = s := by simp [wakeOne, h]
  simp [wakeLanes, this]

/-- The four conditions of a waking, as the statements say them. -/
theorem wakeLanes_admitted {s : State} (run : isRunning s.session.state = true) : WakesAsAdmitted s (wakeLanes s) := by
  have hc : candidateExists s.table = true ↔ ∃ r ∈ s.table.extents, r.isCandidate = true := by simp [candidateExists]
  refine ⟨fun cand free => ?_, fun no => ?_⟩
  · simp only [wakeLanes_frame] at cand free ⊢
    exact wakeLanes_wakes run (hc.2 cand) free
  · simp only [wakeLanes_frame] at no
    rw [wakeLanes_none]
    · exact ⟨rfl, rfl⟩
    · refine Bool.eq_false_iff.2 fun h => ?_
      obtain ⟨-, -, free, cand⟩ := admits_iff.1 h
      obtain ⟨r, hr, hk⟩ := hc.1 cand
      rcases no with no | no
      · rw [no r hr] at hk; cases hk
      · omega

/-- The lanes follow T as it is recomputed. -/
theorem retarget_follow (s : State) : LanesFollow s (retarget s) := by
  have hT : (retarget s).governor.target = targetLevel s := by rw [retarget_governor]
  have hc : candidateExists s.table = true ↔ ∃ r ∈ s.table.extents, r.isCandidate = true := by simp [candidateExists]
  have hr : isRunning s.session.state = true ↔ ∃ closing, s.session.state = .running closing := by
    cases s.session.state <;> simp [isRunning]
  -- a waking at a level that T has become, from a state that differs in the level and the notices alone
  have wake : ∀ u : State, u.session = s.session → u.table = s.table → u.lanes = s.lanes → u.mail = s.mail →
      u.governor.effective = targetLevel s → u.governor.target = targetLevel s →
      ((∃ closing, s.session.state = .running closing) ∧ (∃ r ∈ s.table.extents, r.isCandidate = true) →
        Wakes (targetLevel s) s (wakeLanes u))
      ∧ (¬ ((∃ closing, s.session.state = .running closing) ∧ ∃ r ∈ s.table.extents, r.isCandidate = true) →
        WakesNone s (wakeLanes u)) := by
    intro u h1 h2 h3 h4 h5 h6
    refine ⟨fun both => ?_, fun no => ?_⟩
    · have := wakeLanes_wakes (s := u) (by rw [h1]; exact hr.2 both.1) (by rw [h2]; exact hc.2 both.2) (by omega)
      rw [h5] at this
      have e : wokenAt (targetLevel s) u = wokenAt (targetLevel s) s := by simp only [wokenAt, h3]
      refine ⟨by rw [← e, ← h4]; exact this.1, fun l => ?_⟩
      rw [this.2 l, e]
      simp only [h3]
    · rw [wakeLanes_none]
      · exact ⟨h3, by rw [h4]⟩
      · refine Bool.eq_false_iff.2 fun h => no ?_
        obtain ⟨run, -, -, cand⟩ := admits_iff.1 h
        rw [h1] at run
        rw [h2] at cand
        exact ⟨hr.1 run, hc.1 cand⟩
  unfold LanesFollow LevelWakes
  rw [hT]
  unfold retarget
  dsimp only
  split
  · next h =>
    have w := wake (setEffective (targetLevel s) { s with governor := { s.governor with target := targetLevel s } })
      rfl rfl rfl rfl rfl rfl
    exact ⟨fun ⟨a, b, _⟩ => w.1 ⟨a, b⟩, fun no => w.2 fun ⟨a, b⟩ => no ⟨a, b, .inl h⟩⟩
  · next h =>
    split
    · next h' =>
      split
      · next hp =>
        have lower : s.governor.target < s.governor.effective := by simpa [loweringPending] using hp
        have w := wake { s with governor := { s.governor with target := targetLevel s } } rfl rfl rfl rfl h' rfl
        exact ⟨fun ⟨a, b, _⟩ => w.1 ⟨a, b⟩, fun no => w.2 fun ⟨a, b⟩ => no ⟨a, b, .inr (.inl ⟨h', lower⟩)⟩⟩
      · next hp =>
        have level : ¬ s.governor.target < s.governor.effective := by simpa [loweringPending] using hp
        refine ⟨fun ⟨_, _, c⟩ => ?_, fun _ => ⟨rfl, rfl⟩⟩
        omega
    · next h' =>
      split
      · next hw =>
        have w := wake (setEffective (targetLevel s) { s with governor := { s.governor with target := targetLevel s } })
          rfl rfl rfl rfl rfl rfl
        exact ⟨fun ⟨a, b, _⟩ => w.1 ⟨a, b⟩, fun no => w.2 fun ⟨a, b⟩ => no ⟨a, b, .inr (.inr ⟨by omega, hw⟩)⟩⟩
      · next hw =>
        refine ⟨fun ⟨_, _, c⟩ => ?_, fun _ => ⟨rfl, rfl⟩⟩
        omega

/-! ## The fill range -/

/-- The smallest range over some ranges begins with the lowest of them and ends with the highest. -/
theorem coverAll_spans (ps : List (Nat × Nat)) :
    (ps = [] → coverAll ps = none)
      ∧ (ps ≠ [] → ∃ first past, coverAll ps = some (first, past - first) ∧ (∃ p ∈ ps, p.1 = first) ∧ (∃ p ∈ ps, p.1 + p.2 = past)
        ∧ ∀ p ∈ ps, first ≤ p.1 ∧ p.1 + p.2 ≤ past) := by
  refine ⟨fun h => by rw [h]; rfl, fun h => ?_⟩
  have fold : ∀ (rest : List (Nat × Nat)) (a : Nat × Nat), ∃ first past, rest.foldl cover a = (first, past - first) ∧ first ≤ past
      ∧ (∃ p ∈ a :: rest, p.1 = first) ∧ (∃ p ∈ a :: rest, p.1 + p.2 = past) ∧ ∀ p ∈ a :: rest, first ≤ p.1 ∧ p.1 + p.2 ≤ past := by
    intro rest
    induction rest with
    | nil => exact fun a => ⟨a.1, a.1 + a.2, by simp, by omega, by simp, by simp, by simp⟩
    | cons b rest ih =>
      intro a
      have c1 : (cover a b).1 = min a.1 b.1 := rfl
      have c2 : (cover a b).1 + (cover a b).2 = max (a.1 + a.2) (b.1 + b.2) := by simp only [cover]; omega
      obtain ⟨first, past, he, hle, ⟨p, hp, hf⟩, ⟨q, hq, hl⟩, hall⟩ := ih (cover a b)
      have hab := hall _ List.mem_cons_self
      refine ⟨first, past, he, hle, ?_, ?_, ?_⟩
      · rcases List.mem_cons.1 hp with rfl | hp
        · rcases Nat.le_total a.1 b.1 with hm | hm
          · exact ⟨a, by simp, by omega⟩
          · exact ⟨b, by simp, by omega⟩
        · exact ⟨p, by simp [hp], hf⟩
      · rcases List.mem_cons.1 hq with rfl | hq
        · rcases Nat.le_total (a.1 + a.2) (b.1 + b.2) with hm | hm
          · exact ⟨b, by simp, by omega⟩
          · exact ⟨a, by simp, by omega⟩
        · exact ⟨q, by simp [hq], hl⟩
      · intro r hr
        rcases List.mem_cons.1 hr with rfl | hr
        · omega
        · rcases List.mem_cons.1 hr with rfl | hr
          · omega
          · exact hall r (List.mem_cons_of_mem _ hr)
  cases ps with
  | nil => exact absurd rfl h
  | cons a rest =>
    obtain ⟨first, past, he, -, h1, h2, h3⟩ := fold rest a
    exact ⟨first, past, by simp [coverAll, he], h1, h2, h3⟩

/-- The fill range is the one that R83 describes. -/
theorem fillRange_fillsOver (lost : List LostRange) (record : Option (Nat × Nat)) : FillsOver lost record (fillRange lost record) := by
  have e : lost.map (fun x => (x.first, x.count)) ++ record.toList = [] ↔ lost = [] ∧ record = none := by simp
  obtain ⟨h1, h2⟩ := coverAll_spans (lost.map (fun x => (x.first, x.count)) ++ record.toList)
  exact ⟨fun h => h1 (e.2 h), fun h => h2 fun he => h (e.1 he)⟩

end Sys2Proof.Machine
end

