-- ==== Sys2Proof/Tests/Slice0.lean ====
section
/-! SUPPORT. Small tests of the model, ill-formed terms that the check of well-formedness refuses, and, for every statement with
hypotheses, states and operands that meet its hypotheses, each clause's. -/

namespace Sys2Proof.Tests
set_option Elab.async false
open Sys2Proof Sys2Proof.Machine

/-! ## States to test on -/

/-- A RAID of three members with four blocks in a strip, two extents, slot 1 failed, the spare on channel 3. -/
def group : ArrayGroup :=
  { members := 3, stripKiB := 16, stripes := 300, extentSize := 256, failedSlot := 1, slotMap := [0, 1, 2], spare := 3, epoch := 7
    fill := 0xDEADBEEF }

/-- IDLE with an active ARRAY group and every link present. -/
def linked : State :=
  { State.reset with
    plan := { State.reset.plan with array := some group }
    chans := .replicate 16 { ChannelRec.reset with linkPresent := true, resetAwaited := false } }

/-- A session in a state, with both extents PENDING. -/
def inSession (st : SessionState) : State :=
  { giveRoles group .target linked with
    session := { state := st, longOp := none }
    table := { extents := [{ state := .pending, cls := .normal }, { state := .pending, cls := .last }], ahead := [], holdWaiting := false } }

/-- A session in a state with a long operation of tag 9. -/
def inLong (st : SessionState) (k : LongKind) : State :=
  { inSession st with session := { state := st, longOp := some { kind := k, tag := 9 } } }

/-- A channel's record is changed. -/
def onChan (c : Chan) (f : ChannelRec → ChannelRec) (s : State) : State := { s with chans := s.chans.set c (f s.chans[c]) }

/-- A lane's record is changed. -/
def onLane (l : Lane) (f : LaneRec → LaneRec) (s : State) : State := { s with lanes := s.lanes.set l (f s.lanes[l]) }

/-- Fifteen replies wait. -/
def crowded (s : State) : State :=
  { s with link := { s.link with
      replies := List.replicate 15 { tag := 1, type := 0x01, answer := .done, result := .none } } }

/-- The state after a command. -/
def after (o : Host.Outcome State Fault Refusal) : Option State :=
  match o with
  | .next t => some t
  | _ => none

/-- What a command makes of one part of the state. -/
def shows {α : Type} (f : State → α) (c : Instr) (s : State) : Option α := (after (exec c s)).map f

/-- The reply sent or waiting last. -/
def lastOwed (s : State) : Option Reply := (owed s.link).getLast?

theorem accepts {s : State} (h : s.link.replies.length < 15 ∧ s.link.held = [] ∧ s.link.hunting = .hunt) : Accepts s :=
  ⟨⟨h.1, h.2.1⟩, h.2.2⟩

theorem passes {tag : Tag} {s : State}
    (h : (s.link.replies.length < 15 ∧ s.link.held = [] ∧ s.link.hunting = .hunt) ∧ tagOutstanding s tag = false) : Passes tag s :=
  ⟨accepts h.1, h.2⟩

/-- The last values of the notices pending. -/
def told (s : State) : List NoticeValue := s.link.notices.map (·.value)

/-- Every extent has class HOLD. -/
def onHold (s : State) : State := { s with table := { s.table with extents := s.table.extents.map fun r => { r with cls := .hold } } }

/-! ## Well-formedness: an ill-formed term for each check -/

theorem test_commitNamesAGroup :
    (Instr.commit 1 (some ⟨false, false, false⟩)).wellFormed = false ∧ (Instr.commit 1 (some ⟨false, true, false⟩)).wellFormed = true := by
  decide

theorem test_writeBlocksHoldsItsCount :
    (Instr.writeBlocks 1 (some ⟨0, 2, [0]⟩)).wellFormed = false ∧ (Instr.writeBlocks 1 (some ⟨0, 1, [0]⟩)).wellFormed = true := by
  decide

theorem test_writeBlocksFitsAFrame :
    (Instr.writeBlocks 1 (some ⟨0, 33, List.replicate 33 0⟩)).wellFormed = false
      ∧ (Instr.writeBlocks 1 (some ⟨0, 32, List.replicate 32 0⟩)).wellFormed = true := by
  decide +kernel

theorem test_unknownTypeIsUnknown :
    (Instr.unknownTypeRecord 0x11 1).wellFormed = false ∧ (Instr.unknownTypeRecord 0x12 1).wellFormed = true
      ∧ (Instr.unknownTypeRecord 0 1).wellFormed = true := by
  decide

theorem test_linkErrorHoldsBytes : (Instr.linkError []).wellFormed = false ∧ (Instr.linkError [0xD2]).wellFormed = true := by decide

theorem test_goodCompletionFitsACommand :
    (Instr.stripCompletion 0 0 (.good (List.replicate 257 0))).wellFormed = false
      ∧ (Instr.stripCompletion 0 0 (.good (List.replicate 256 0))).wellFormed = true := by
  decide +kernel

theorem test_mediumCompletionFitsACommand :
    (Instr.stripCompletion 0 0 (.medium 0 1 (List.replicate 257 0))).wellFormed = false
      ∧ (Instr.stripCompletion 0 0 (.medium 0 1 (List.replicate 256 0))).wellFormed = true := by
  decide +kernel

/-! ## Bytes and geometry -/

/-- The CRC-32 of the characters 123456789 (log entry 4). -/
theorem test_crc32 : crc32 [0x31, 0x32, 0x33, 0x34, 0x35, 0x36, 0x37, 0x38, 0x39] = 0xCBF43926 := by decide +kernel

/-- The worked example of section 5.5 of the scope file: N 5, B 16, LBA 1000. -/
theorem test_locate :
    locate { group with members := 5, stripKiB := 64 } 1000 = { stripe := 15, strip := 2, block := 8, slot := 2, member := 248 } := by
  decide

/-- A frame is found behind other bytes, and is the record it was made of. -/
theorem test_scanFindsAFrame : scan (0xD2 :: frame 0x0C 7 []) = .record 0x0C 7 [] [] := by decide +kernel

/-- No word spells a command, and the queue stays as it is. -/
theorem test_noWordSpellsACommand : decodeTableWord 32 0 = none ∧ State.reset.withFetchWord 32 0 = State.reset := by decide +kernel

/-! ## One step of each command -/

theorem test_stepTakesTheFront :
    (after (step { linked with pending := [.setRate 4 (some 3), .recordSent] })).map (fun t => (t.pending, t.governor.commanded))
      = some ([.recordSent], 3) := by
  decide +kernel

theorem test_idleStep : (after (step State.reset)).map (·.now) = some 1 := by decide +kernel

theorem test_powerOnReset : shows id .powerOnReset (inSession .paused) = some State.reset := by decide +kernel

theorem test_reset : shows (fun t => (t.link.resetCause, t.session.state)) (.reset 3) (inSession .paused) = some (.command, .idle) := by
  decide +kernel

theorem test_identify :
    shows lastOwed (.identify 3 (some ())) linked
      = some (some (done 3 0x01 (.identify [727, 9232, 1, 16, 4, 384, 32, 256, 256, 4096, 8, 4] .power))) := by
  decide +kernel

theorem test_stageArray : shows (fun t => t.plan.stagedArray) (.stageArray 3 (some group)) State.reset = some group := by decide +kernel

theorem test_stageArrayOutOfRange :
    shows lastOwed (.stageArray 3 (some { group with members := 2 })) State.reset = some (some (refusal 3 0x03 (.range 1))) := by
  decide +kernel

theorem test_stagePolicy :
    shows (fun t => t.plan.stagedPolicy.retryLimit) (.stagePolicy 3 (some (PolicyGroup.fields { defaultPolicy with retryLimit := 7 })))
      State.reset = some 7 := by
  decide +kernel

theorem test_stageWindow :
    shows (fun t => t.plan.stagedWindows[7].cls) (.stageWindow 3 (some ⟨7, some true, 0, 4095, some .hold⟩)) State.reset = some .hold := by
  decide +kernel

theorem test_commit :
    shows (fun t => (t.plan.array, lastOwed t)) (.commit 3 (some ⟨true, false, false⟩))
      { State.reset with plan := { State.reset.plan with stagedArray := group, stagedValid := true } }
      = some (some group, some (done 3 0x06 .none)) := by
  decide +kernel

theorem test_commitOfNothingStaged :
    shows lastOwed (.commit 3 (some ⟨true, false, false⟩)) State.reset = some (some (refusal 3 0x06 (.invalidPlan 1))) := by decide +kernel

theorem test_querySession :
    shows lastOwed (.querySession 3 (some ())) (inSession .paused)
      = some (some (done 3 0x07 (.session .paused none ⟨2, 0, 0, 0⟩ 0 0 64 .idle (.seq 1) .a))) := by
  decide +kernel

theorem test_queryPlan :
    shows lastOwed (.queryPlan 3 (some ())) linked
      = some (some (done 3 0x07 (.plan
          { stagedArray := State.reset.plan.stagedArray, stagedValid := false, stagedPolicy := defaultPolicy
            stagedWindows := .replicate 8 offWindow
            array := some { group := group, blocks := 4, data := 8, capacity := 2400, extents := 2 }
            policy := defaultPolicy, windows := .replicate 8 offWindow }))) := by
  decide +kernel

theorem test_queryExtents :
    shows lastOwed (.queryExtents 3 (some ⟨1, 256⟩)) (inSession .paused)
      = some (some (done 3 0x07 (.extents 2 false [⟨1, 44, ⟨.pending, .last⟩⟩] []))) := by
  decide +kernel

theorem test_queryLosses :
    shows lastOwed (.queryLosses 3 (some ⟨0, 64⟩)) (inSession .paused) = some (some (done 3 0x07 (.losses 0 64 []))) := by decide +kernel

theorem test_queryChannels :
    (shows lastOwed (.queryChannels 3 (some ())) (inSession .paused)).map (fun r => r.isSome) = some true := by decide +kernel

theorem test_queryRate :
    shows lastOwed (.queryRate 3 (some ())) State.reset
      = some (some (done 3 0x07 (.rate 2 4 4 2 2 false none 0 (List.replicate 4 ⟨.parked, none, none⟩)))) := by
  decide +kernel

theorem test_queryMonitors :
    shows lastOwed (.queryMonitors 3 (some ())) State.reset = some (some (done 3 0x07 (.monitors (List.replicate 4 Monitor.reset)))) := by
  decide +kernel

theorem test_start :
    shows (fun t => (t.session.state, t.table.extents.length, t.chans[3].role, t.chans[3].rebuildPending.map (fun c => (c.block, c.count))))
      (.start 3 (some ())) linked = some (.starting, 2, .target, [(1200, 1)]) := by
  decide +kernel

theorem test_restore :
    shows (fun t => (t.session.state, t.chans[3].rebuildPending.map (fun c => (c.block, c.count)))) (.restore 3 (some ())) linked
      = some (.restoring, [(1200, 6)]) := by
  decide +kernel

theorem test_pause :
    shows (fun t => (t.session.state, t.writer.state)) (.pause 3 (some ())) (inSession (.running false))
      = some (.pausing .request, .writing ⟨.paused, 1, .a⟩) := by
  decide +kernel

theorem test_continue :
    shows (fun t => (t.session.state, t.mail.claims, t.writer.period)) (.continueSession 3 (some ())) (inSession .paused)
      = some (.running false, [0, 1], some 120000) := by
  decide +kernel

theorem test_abort :
    shows (fun t => (t.session.state, lastOwed t)) (.abort 3 (some ())) (inLong .starting .start)
      = some (.draining, some ⟨9, 0x08, .overtaken, .none⟩) := by
  decide +kernel

theorem test_release :
    shows (fun t => (t.session.state, t.chans[3].role)) (.release 3 (some ())) (inSession .complete) = some (.idle, .unused) := by
  decide +kernel

theorem test_setRate :
    shows (fun t => (t.governor.target, t.governor.effective)) (.setRate 3 (some 4)) State.reset = some (4, 4) := by decide +kernel

theorem test_setMonitor :
    shows (fun t => t.monitors[3].count) (.setMonitor 3 (some ⟨3, some .stripLost, 0, some .always, some .both, some true, 5⟩)) State.reset
      = some 5 := by
  decide +kernel

theorem test_readBlocks :
    shows (fun t => (t.queue.map (fun e => (e.stripe, e.stage)), t.mail.reservations)) (.readBlocks 3 (some ⟨2392, 8⟩)) (inSession .paused)
      = some ([(299, .bufferWait)], [.fg 3]) := by
  decide +kernel

theorem test_writeBlocks :
    shows (fun t => t.locks.map (fun e => (e.stripe, e.holders.map (·.mode)))) (.writeBlocks 3 (some ⟨8, 1, [1]⟩)) (inSession .paused)
      = some [(1, [.exclusive])] := by
  decide +kernel

theorem test_readBlocksSpan :
    shows lastOwed (.readBlocks 3 (some ⟨7, 2⟩)) (inSession .paused) = some (some (refusal 3 0x10 .span)) := by decide +kernel

theorem test_unknownTypeRecord :
    shows lastOwed (.unknownTypeRecord 0x20 3) linked = some (some (refusal 3 0x20 .unknown)) := by decide +kernel

theorem test_linkError :
    shows (fun t => t.link.notices.map (·.value)) (.linkError [0xD2, 0x4B, 0x0C, 0, 1, 0, 2, 0, 65]) linked
      = some [.linkError .length 0x0C] := by
  decide +kernel

/-- A frame whose dispatch brings the reply queue to 15: what stands behind it is held unsearched (R176). -/
theorem test_bytesBehindTheFifteenthReply :
    shows (fun t => (t.link.replies.length, t.link.held)) (.linkError (frame 0x0C 7 [] ++ [1, 2]))
      { linked with link := { (crowded linked).link with replies := (crowded linked).link.replies.drop 1 } }
      = some (15, [.bytes [1, 2]]) := by
  decide +kernel

theorem test_heldRecordDispatch :
    shows (fun t => (t.session.state, t.link.held)) .heldRecordDispatch
      { inSession .complete with link := { State.reset.link with held := [.record 3 (.release (some ())), .record 4 .reset] } }
      = some (.idle, [.record 4 .reset]) := by
  decide +kernel

theorem test_recordSent : shows (fun t => t.link.sender) .recordSent State.reset = some .idle := by decide +kernel

theorem test_stripCompletion :
    shows (fun t => (t.chans[0].issued, t.mail.endings.map (·.status))) (.stripCompletion 0 5 (.good [1]))
      (onChan 0 (fun r => { r with issued := [⟨5, ⟨.fg 2, false, 0, 1, []⟩, 5000⟩] }) linked) = some ([], [.good [1]]) := by
  decide +kernel

theorem test_stripCompletionUnmatched :
    shows (fun t => t.link.notices.map (fun n => (n.kind, n.subject))) (.stripCompletion 0 5 .rejected) linked
      = some [(.lateCompletion, 0)] := by
  decide +kernel

theorem test_linkDown :
    shows (fun t => (t.chans[2].failed, t.mail.told)) (.linkDown 2) (inSession (.running false)) = some (true, [⟨2, .survivor 2⟩]) := by
  decide +kernel

theorem test_linkUp :
    shows (fun t => (t.chans[2].linkPresent, t.chans[2].resetAwaited)) (.linkUp 2) State.reset = some (true, false) := by decide +kernel

theorem test_commandTimeout :
    shows (fun t => (t.now, t.chans[0].errors, t.mail.endings.map (·.status))) (.commandTimeout 0 5)
      (onChan 0 (fun r => { r with issued := [⟨5, ⟨.fg 2, false, 0, 1, []⟩, 5000⟩] }) linked) = some (5000, 1, [.timeout]) := by
  decide +kernel

theorem test_commandIssue :
    shows (fun t => (t.chans[0].issued.map (fun i => (i.number, i.expiry)), t.chans[0].next, t.chans[0].rebuildPending)) (.commandIssue 0)
      (onChan 0 (fun r => { r with rebuildPending := [⟨.lane 0, false, 0, 4, []⟩], next := 0xFFFFFFFF }) linked)
      = some ([(0xFFFFFFFF, 5000)], 0, []) := by
  decide +kernel

theorem test_channelFailedTold :
    shows (fun t => t.session.state) (.channelFailedTold 2)
      { inSession (.running false) with mail := { Mail.empty with told := [⟨2, .survivor 2⟩] } } = some (.halted .secondMember) := by
  decide +kernel

theorem test_claim :
    shows (fun t => (t.table.extents.map (·.state), t.mail.answers)) (.claim 0)
      { inSession (.running false) with mail := { Mail.empty with claims := [0] } }
      = some ([.active 0 0, .pending], [⟨0, some (0, 0, 256)⟩]) := by
  decide +kernel

/-- Lane 0 in a state, on stripe 3 of extent 0. -/
def working (st : LaneState) (session : SessionState) : State :=
  onLane 0 (fun _ =>
      { state := st, extent := some 0, stripe := some 3, lost := [], fill := none, accum := List.replicate 4 5
        reads := [⟨0, 1, .outstanding⟩, ⟨2, 1, .good⟩] })
    { inSession session with
      table := { extents := [{ state := .active 3 0, cls := .normal }, { state := .pending, cls := .last }], ahead := []
                 holdWaiting := false }
      locks := [{ stripe := 3, holders := [⟨.lane 0, .rebuild⟩], waiters := [] }] }

/-- An ending on its way. -/
def ending (c : Chan) (issuer : Issuer) (write : Bool) (st : EndStatus) (s : State) : State :=
  { s with mail := { s.mail with endings := s.mail.endings ++ [⟨c, ⟨issuer, write, 12, 4, []⟩, st⟩] } }

theorem test_claimAnswer :
    shows (fun t => (t.lanes[0].state, t.lanes[0].stripe, t.mail.reservations)) (.claimAnswer 0)
      { working .claiming (.running false) with locks := [], mail := { Mail.empty with answers := [⟨0, some (0, 3, 256)⟩] } }
      = some (.bufferWait, some 3, [.lane 0]) := by
  decide +kernel

theorem test_lockGrant :
    shows (fun t => (t.lanes[0].state, t.pool.held.map (·.op))) (.lockGrant (.lane 0))
      { working .lockWait (.running false) with mail := { Mail.empty with grants := [.lane 0] } } = some (.bufferWait, [.lane 0]) := by
  decide +kernel

theorem test_bufferReservation :
    shows (fun t => (t.lanes[0].state, t.chans[2].rebuildPending.map (·.block))) (.bufferReservation (.lane 0))
      { working .bufferWait (.running false) with mail := { Mail.empty with reservations := [.lane 0] } } = some (.reading, [12]) := by
  decide +kernel

theorem test_laneReadCompletion :
    shows (fun t => (t.lanes[0].state, t.lanes[0].accum, t.chans[3].rebuildPending.map (·.blocks))) (.laneReadCompletion 0 0)
      (ending 0 (.lane 0) false (.good [1, 2, 4, 5]) (working .reading (.running false))) = some (.writing, [4, 7, 1, 0], [[4, 7, 1, 0]]) := by
  decide +kernel

theorem test_laneWriteCompletion :
    shows (fun t => (t.table.extents.map (·.state), t.lanes[0].state, t.lanes[0].stripe)) (.laneWriteCompletion 0)
      (ending 3 (.lane 0) true (.good []) (working .writing (.running false)))
      = some ([.active 4 0, .pending], .bufferWait, some 4) := by
  decide +kernel

/-- A read of one block of stripe 0, in its read phase with the stripe rebuilt. -/
def readEntry : FgEntry :=
  { tag := 5, write := false, lba := 0, count := 1, stripe := 0, fullStripe := false, blocks := [], arrival := 0, stage := .readPhase
    plan := { rebuilt := true, missing := [], lost := none, wanted := [], cmds := [⟨0, 0, false, 0, 1, 1, .outstanding⟩] }
    reconstructed := false, unrecoverable := none, bufs := emptyBuffers group, computed := [] }

/-- A session in PAUSED with one foreground operation. -/
def withEntry (e : FgEntry) : State := { inSession .paused with queue := [e] }

/-- A full-stripe write of stripe 0 in its write phase, its spare write still outstanding, and with one more write where asked. -/
def writeEntry (full : Bool) (more : List PhaseCmd) : FgEntry :=
  { readEntry with
    write := true, count := 8, fullStripe := full, blocks := List.replicate 8 0, stage := .writePhase
    plan := { rebuilt := false, missing := [1], lost := none, wanted := [], cmds := ⟨1, 3, true, 0, 4, 1, .outstanding⟩ :: more } }

/-- The fill range runs over the lost ranges and the record, lowest first block to highest last block (R83). -/
theorem test_fillRange :
    fillRange [⟨0, 2, 1, .medium⟩, ⟨2, 5, 3, .medium⟩] (some (0, 1)) = some (0, 8) ∧ fillRange [] (some (3, 2)) = some (3, 2)
      ∧ fillRange [] none = none := by
  decide

theorem test_fgReadCompletion :
    shows (fun t => (t.queue, lastOwed t)) (.fgReadCompletion 5 0) (ending 0 (.fg 5) false (.good [7]) (withEntry readEntry))
      = some ([], some (done 5 0x10 (.blocks [7]))) := by
  decide +kernel

theorem test_fgWriteCompletion :
    shows (fun t => (t.table.ahead, lastOwed t)) (.fgWriteCompletion 5 3)
      (ending 3 (.fg 5) true (.good []) (withEntry (writeEntry true []))) = some ([0], some (done 5 0x11 .none)) := by
  decide +kernel

theorem test_checkpointTrigger :
    shows (fun t => (t.mail.triggers, t.writer.state)) .checkpointTrigger
      { inSession (.running false) with mail := { Mail.empty with triggers := 2 } } = some (1, .writing ⟨.running, 1, .a⟩) := by
  decide +kernel

theorem test_periodTimerExpiry :
    shows (fun t => (t.now, t.writer.period)) .periodTimerExpiry
      { inSession (.running false) with writer := { Writer.reset with period := some 500 } } = some (500, some 120500) := by
  decide +kernel

/-- The writer writes a record with a mark and a sequence in slot A. -/
def writingRecord (m : Mark) (n : Nat) (s : State) : State := { s with writer := { s.writer with state := .writing ⟨m, n, .a⟩ } }

theorem test_checkpointWriteCompletion :
    shows (fun t => (t.session.state, t.writer.next, lastOwed t)) .checkpointWriteCompletion
      (ending 3 .checkpoint true (.good []) (writingRecord .running 2 (inLong .starting .start)))
      = some (.running false, .seq 3, some ⟨9, 0x08, .done, .none⟩) := by
  decide +kernel

/-- The spare's declaration has ended the write in flight: the writer is IDLE in TARGET-FAILED (R49). -/
theorem test_targetLostEndsTheWrite :
    shows (fun t => (t.session.state, t.writer.state)) (.channelFailedTold 3)
      { ending 3 .checkpoint true .memberFailed (writingRecord .running 4 (inSession (.running false))) with
        mail := { (ending 3 .checkpoint true .memberFailed linked).mail with told := [⟨3, .target⟩] } } = some (.targetFailed, .idle) := by
  decide +kernel

/-- The six blocks read from a slot that holds a record with a mark and a sequence. -/
def slotWith (m : Mark) (n : Nat) : List Block :=
  blocksOfBytes (recordBytes group n m 64 (inSession .paused).table.extents []) ++ List.replicate 5 0

/-- RESTORE reads a slot, with what it has of slot A. -/
def reading (a : SlotRead) (slot : CkptSlot) : State :=
  { inLong .restoring .restore with
    table := .empty, writer := { Writer.reset with state := .reading { a, b := .notRead, current := slot, attempts := 1 } } }

theorem test_checkpointReadCompletion :
    shows (fun t => (t.session.state, t.table.extents.length, t.writer.next)) .checkpointReadCompletion
      (ending 3 .checkpoint false (.good (slotWith .running 8)) (reading (.read (slotWith .running 7)) .b))
      = some (.paused, 2, .seq 9) := by
  decide +kernel

theorem test_drainEnd :
    shows (fun t => t.writer.state) .drainEnd (inLong .draining .abort) = some (.writing ⟨.abandoned, 1, .a⟩) := by decide +kernel

theorem test_governSignal :
    shows (fun t => (t.governor.limit, t.governor.quiet)) .governSignal { linked with mail := { Mail.empty with signals := 1 } }
      = some (3, some 30000) := by
  decide +kernel

theorem test_quietTimerExpiry :
    shows (fun t => (t.governor.limit, t.governor.quiet)) .quietTimerExpiry
      { linked with governor := { State.reset.governor with limit := 3, quiet := some 30000 } } = some (4, none) := by
  decide +kernel

/-! ## The statements' hypotheses are met: the control link, the plan, the session -/

theorem witness_StepTakesFront :
    { State.reset with pending := [.recordSent] }.pending = .recordSent :: [] ∧ State.reset.pending = [] := by decide

theorem witness_ResetsLeaveTheResetState :
    (Instr.powerOnReset = .powerOnReset ∧ ResetCause.power = .power) ∧ Accepts (inSession .paused) ∧ ∃ tag, Instr.reset 3 = .reset tag :=
  ⟨⟨rfl, rfl⟩, accepts (by decide +kernel), 3, rfl⟩

theorem witness_ResetCauseFollowsTheResets :
    Accepts linked ∧ Passes 3 linked ∧ shows id (.linkError (0xD2 :: frame 0x02 0 [])) linked = some (State.afterReset .command [])
      ∧ shows (fun t => t.link.resetCause) .recordSent linked = some .power :=
  ⟨accepts (by decide +kernel), passes (by decide +kernel), by decide +kernel, by decide +kernel⟩

theorem witness_IdentifyPlanAndMonitorsReport : Passes 3 (inSession .draining) ∧ Passes 3 (inSession .restoring) :=
  ⟨passes (by decide +kernel), passes (by decide +kernel)⟩

theorem witness_StageArrayAndWindowWriteOrName_array :
    FirstOut (ArrayOut { group with members := 17 }) 1 ∧ FirstOut (ArrayOut { group with stripKiB := 17 }) 2
      ∧ FirstOut (ArrayOut { group with stripes := 268435457 }) 3 ∧ FirstOut (ArrayOut { group with extentSize := 255 }) 4
      ∧ FirstOut (ArrayOut { group with failedSlot := 16 }) 5 ∧ FirstOut (ArrayOut { group with slotMap := [0, 1, 16] }) 6
      ∧ FirstOut (ArrayOut { group with slotMap := [0, 1] }) 6 ∧ FirstOut (ArrayOut { group with spare := 16 }) 7
      ∧ FirstOut (ArrayOut { group with epoch := 4294967296 }) 8
      ∧ ∀ n, ¬ ArrayOut { group with stripes := 268435456, extentSize := 65536, epoch := 4294967295 } n := by
  refine ⟨?_, ?_, ?_, ?_, ?_, ?_, ?_, ?_, ?_, ?_⟩
  iterate 9 exact ⟨by simp [ArrayOut, group], by intro m hm; interval_cases m <;> simp [ArrayOut, group]⟩
  intro n; unfold ArrayOut; split <;> simp [group]

/-- The fields of the default POLICY group. -/
def policyFields : PolicyFields := PolicyGroup.fields defaultPolicy

theorem witness_StagePolicyAndSetMonitorWriteOrName_policy :
    FirstOut (PolicyOut { policyFields with retryLimit := 8 }) 1 ∧ FirstOut (PolicyOut { policyFields with errorLimit := 256 }) 2
      ∧ FirstOut (PolicyOut { policyFields with timeoutMs := 9 }) 3 ∧ FirstOut (PolicyOut { policyFields with latencyMs := 0 }) 4
      ∧ FirstOut (PolicyOut { policyFields with lossLimit := 257 }) 5 ∧ FirstOut (PolicyOut { policyFields with periodS := 9 }) 6
      ∧ FirstOut (PolicyOut { policyFields with ceiling := 5 }) 7 ∧ FirstOut (PolicyOut { policyFields with quietS := 0 }) 8
      ∧ FirstOut (PolicyOut { policyFields with classes := policyFields.classes.set 0 (some .routine) }) 9
      ∧ FirstOut (PolicyOut { policyFields with classes := policyFields.classes.set 12 none }) 21
      ∧ FirstOut (PolicyOut { policyFields with silences := policyFields.silences.set 0 (some true) }) 22
      ∧ FirstOut (PolicyOut { policyFields with silences := policyFields.silences.set 12 none }) 34
      ∧ ∀ n, ¬ PolicyOut policyFields n := by
  refine ⟨?_, ?_, ?_, ?_, ?_, ?_, ?_, ?_, ?_, ?_, ?_, ?_, ?_⟩
  iterate 12
    exact ⟨by simp only [PolicyOut, ClassOut, SilenceOut]; decide +kernel,
      by intro m hm; interval_cases m <;> simp only [PolicyOut, ClassOut, SilenceOut] <;> decide +kernel⟩
  intro n
  unfold PolicyOut ClassOut SilenceOut
  split
  iterate 8 decide
  rintro (⟨i, -, h⟩ | ⟨i, -, h⟩) <;> revert i <;> decide +kernel

theorem witness_StageArrayAndWindowWriteOrName_window :
    FirstOut (WindowOut ⟨8, some true, 0, 0, some .hold⟩) 1 ∧ FirstOut (WindowOut ⟨7, none, 0, 0, some .hold⟩) 2
      ∧ FirstOut (WindowOut ⟨7, some true, 4096, 0, some .hold⟩) 3 ∧ FirstOut (WindowOut ⟨7, some true, 0, 4096, some .hold⟩) 4
      ∧ FirstOut (WindowOut ⟨7, some true, 0, 0, some .normal⟩) 5 ∧ FirstOut (WindowOut ⟨7, some true, 0, 0, none⟩) 5
      ∧ offWindow.cls ≠ .normal := by
  refine ⟨?_, ?_, ?_, ?_, ?_, ?_, by decide⟩
  iterate 6 exact ⟨by simp [WindowOut], by intro m hm; interval_cases m <;> simp [WindowOut]⟩

/-- A staged ARRAY group, valid. -/
def staged (g : ArrayGroup) : PlanStore := { State.reset.plan with stagedArray := g, stagedValid := true }

/-- Five loss records. -/
def fiveLosses : List LossRec := (List.range 5).map fun n => { stripe := n, first := 0, count := 1, chan := 0, cause := .medium }

/-- Every surviving slot of the group has its own channel, other than the spare's. -/
theorem survivors_of_group {i : Nat} (h : Surviving group i) : i = 0 ∨ i = 2 := by
  obtain ⟨h1, h2⟩ := h
  simp only [group] at h1 h2
  omega

theorem group_passes (n : Nat) : ¬ CommitFails (staged group) n := by
  unfold CommitFails
  split
  · simp [staged, group]
  · simp [staged, group]
  · simp [staged, group]
  · simp only [staged, group, not_not]; exact ⟨0, by decide, by decide⟩
  · simp [staged, group]
  · simp [staged, group]
  · simp only [staged, not_not]
    refine ⟨fun j hj => ?_, fun i j hi hj hne => ?_⟩
    · rcases survivors_of_group hj with rfl | rfl
      · exact ⟨0, by decide, by decide⟩
      · exact ⟨2, by decide, by decide⟩
    · rcases survivors_of_group hi with rfl | rfl <;> rcases survivors_of_group hj with rfl | rfl <;> simp_all [group]
  · rintro ⟨j, hj, h⟩
    rcases survivors_of_group hj with rfl | rfl <;> simp [staged, group] at h
  · exact id

theorem witness_CommitRefusesInOrder :
    Passes 3 (inSession .draining) ∧ (Groups.mk false true false).named = true ∧ (inSession .draining).session.state = .draining
      ∧ Passes 3 (inSession .paused) ∧ (inSession .paused).session.state ≠ .idle
      ∧ Passes 3 State.reset ∧ State.reset.session.state = .idle ∧ FirstOut (CommitFails State.reset.plan) 1
      ∧ FirstOut (CommitFails (staged { group with extentSize := 257 })) 4
      ∧ FirstOut (CommitFails (staged { group with failedSlot := 3, slotMap := [0, 1, 2] })) 6
      ∧ Passes 3 { State.reset with losses := fiveLosses, plan := { State.reset.plan with stagedPolicy := { defaultPolicy with lossLimit := 4 } } }
      ∧ 4 < fiveLosses.length := by
  refine ⟨passes (by decide +kernel), by decide, by decide +kernel, passes (by decide +kernel), by decide +kernel,
    passes (by decide +kernel), by decide +kernel, ?_, ?_, ?_, passes (by decide +kernel), by decide⟩
  · exact ⟨by simp [CommitFails, State.reset, State.afterReset], by intro m hm; interval_cases m; simp [CommitFails]⟩
  · refine ⟨?_, by intro m hm; interval_cases m <;> simp [CommitFails, staged, group]⟩
    simp only [CommitFails, staged, group]; decide
  · refine ⟨by simp [CommitFails, staged, group], ?_⟩
    intro m hm; interval_cases m <;> simp [CommitFails, staged, group]

/-- A running session with windows staged that put every extent on one class, and a policy staged with ceiling 3. -/
def restaged (c : ExtClass) : State :=
  { inSession (.running false) with
    plan := { linked.plan with
      array := some group
      stagedWindows := linked.plan.stagedWindows.set 0 { enable := true, base := 0, mask := 0, cls := c }
      stagedPolicy := { defaultPolicy with ceiling := 3 } } }

theorem witness_CommitLatchesTheNamedGroups :
    (Passes 3 { State.reset with plan := staged group } ∧ (Groups.mk true true true).named = true
      ∧ State.reset.session.state ≠ .draining ∧ State.reset.session.state = .idle ∧ (∀ n, ¬ CommitFails (staged group) n)
      ∧ State.reset.losses.length ≤ (staged group).stagedPolicy.lossLimit)
    ∧ Passes 3 (restaged .first) ∧ (Groups.mk false true true).named = true ∧ (restaged .first).session.state = .running false
      ∧ (restaged .first).losses.length ≤ (restaged .first).plan.stagedPolicy.lossLimit
      ∧ (∀ l : Lane, (restaged .first).lanes[l].state = .parked)
      ∧ shows (fun t => (t.table.extents.any (·.isCandidate), decide (t.governor.effective ≤ t.governor.target), t.mail.claims))
          (.commit 3 (some ⟨false, true, true⟩)) (restaged .first) = some (true, true, [0, 1])
      ∧ shows (fun t => (t.table.extents.any (·.isCandidate), t.mail.claims)) (.commit 3 (some ⟨false, true, true⟩)) (restaged .hold)
          = some (false, []) :=
  ⟨⟨passes (by decide +kernel), rfl, by decide +kernel, by decide +kernel, group_passes, by decide +kernel⟩,
    passes (by decide +kernel), rfl, by decide +kernel, by decide +kernel, by decide +kernel, by decide +kernel, by decide +kernel⟩

theorem witness_CommitLatchesTheNamedGroups_lanesAndHold :
    shows (fun t => (t.table.holdWaiting, told t, t.table.extents.map (·.cls))) (.commit 3 (some ⟨false, false, true⟩)) (restaged .hold)
        = some (true, [.held 2], [.hold, .hold])
      ∧ (restaged .hold).table.extents ≠ [] ∧ (restaged .hold).table.holdWaiting = false ∧ silenced defaultPolicy .holdWaiting = false
      ∧ shows (fun t => (t.governor.target, t.mail.claims)) (.commit 3 (some ⟨false, true, false⟩))
          { restaged .first with governor := { State.reset.governor with commanded := 4 } } = some (3, [0, 1, 2])
      ∧ LevelWakes (restaged .first) { restaged .first with governor := { State.reset.governor with target := 3 } }
      ∧ ¬ LevelWakes (inSession .paused) (inSession .paused) :=
  ⟨by decide +kernel, by decide +kernel, by decide +kernel, by decide +kernel, by decide +kernel,
    ⟨⟨false, by decide +kernel⟩, by decide +kernel, by decide +kernel⟩, fun h => absurd h.1 (by rintro ⟨c, hc⟩; cases hc)⟩

theorem witness_QueryRateSessionAndChannelsReport : Passes 3 State.reset ∧ RateLaw State.reset ∧ Passes 3 (inSession .restoring) :=
  ⟨passes (by decide +kernel), by simp only [RateLaw]; decide +kernel, passes (by decide +kernel)⟩

theorem witness_QueryExtentsAndLossesReport :
    Passes 3 linked ∧ linked.table.extents = [] ∧ (linked.session.state = .idle ∨ linked.session.state = .restoring)
      ∧ Passes 3 (inSession .paused) ∧ (inSession .paused).table.extents ≠ [] ∧ ¬ (1 ≤ 257 ∧ 257 ≤ 256) ∧ ¬ (1 ≤ 65 ∧ 65 ≤ 64)
      ∧ (inSession .paused).table.extents.length ≤ 2 ∧ (inSession .paused).plan.array = some group
      ∧ 1 < (inSession .paused).table.extents.length ∧ (inSession .paused).session.state ≠ .idle
      ∧ (inSession .paused).session.state ≠ .restoring :=
  ⟨passes (by decide +kernel), by decide +kernel, by decide +kernel, passes (by decide +kernel), by decide +kernel, by decide, by decide,
    by decide +kernel, by decide +kernel, by decide +kernel, by decide +kernel, by decide +kernel⟩

theorem witness_SetRateCommandsTheLevel : Passes 3 (inSession (.running false)) ∧ 4 < 5 ∧ 4 ≤ 4 :=
  ⟨passes (by decide +kernel), by decide, by decide⟩

/-- In RUNNING parked lanes wake for a raised level, for a lowering ended by a T at the effective level, and for a level lowered at once; a
lane that works is passed over, and without a candidate none wakes (R91, R92, log entry 26). -/
theorem witness_SetRateCommandsTheLevel_lanes :
    shows (fun t => (t.governor.effective, t.mail.claims)) (.setRate 3 (some 4)) (inSession (.running false)) = some (4, [0, 1, 2, 3])
      ∧ shows (fun t => (t.governor.effective, t.mail.claims)) (.setRate 3 (some 3)) (working .reading (.running false)) = some (3, [1, 2])
      ∧ shows (fun t => (t.governor.effective, t.mail.claims)) (.setRate 3 (some 2))
          { working .reading (.running false) with governor := { State.reset.governor with commanded := 0, target := 0 } } = some (2, [1])
      ∧ shows (fun t => (t.governor.effective, t.mail.claims)) (.setRate 3 (some 1)) (inSession (.running false)) = some (1, [0])
      ∧ shows (fun t => t.mail.claims) (.setRate 3 (some 4)) (onHold (inSession (.running false))) = some [] := by
  decide +kernel

theorem witness_StagePolicyAndSetMonitorWriteOrName_monitor :
    FirstOut (MonitorOut ⟨4, some .fgLate, 0, some .always, some .both, some true, 0⟩) 1
      ∧ FirstOut (MonitorOut ⟨3, none, 0, some .always, some .both, some true, 0⟩) 2
      ∧ FirstOut (MonitorOut ⟨3, some .fgLate, 65536, some .always, some .both, some true, 0⟩) 3
      ∧ FirstOut (MonitorOut ⟨3, some .fgLate, 0, none, some .both, some true, 0⟩) 4
      ∧ FirstOut (MonitorOut ⟨3, some .fgLate, 0, some .always, none, some true, 0⟩) 5
      ∧ FirstOut (MonitorOut ⟨3, some .fgLate, 0, some .always, some .both, none, 0⟩) 6
      ∧ FirstOut (MonitorOut ⟨3, some .fgLate, 0, some .always, some .both, some true, 4294967296⟩) 7 := by
  refine ⟨?_, ?_, ?_, ?_, ?_, ?_, ?_⟩
  iterate 7 exact ⟨by simp [MonitorOut], by intro m hm; interval_cases m <;> simp [MonitorOut]⟩

/-- Monitor 2 stands before its overflow. -/
def full : State :=
  { linked with monitors := linked.monitors.set 2 ⟨.memberRetry, 0x8000, .always, .both, true, 0xFFFFFFFF⟩ }

theorem witness_EventsStepTheMonitorsThatCountThem :
    silenced full.plan.policy .monitorOverflow = false ∧ (raiseEvent .memberRetry (some 15) full).monitors[2].count = 0
      ∧ full.monitors[2].count ≠ 0 ∧ full.monitors[2].action = .both
      ∧ (raiseEvent .memberRetry (some 14) full).monitors[2].count ≠ 0 := by
  decide +kernel

theorem witness_SessionRequestsAreRefusedInOrder :
    (Passes 3 (inLong .starting .start) ∧ (inLong .starting .start).session.longOp ≠ none)
      ∧ (Passes 3 State.reset ∧ State.reset.session.longOp = none ∧ State.reset.plan.array = none
        ∧ ∀ closing, State.reset.session.state ≠ .running closing)
      ∧ (Passes 3 (onChan 2 (fun r => { r with linkPresent := false }) linked)
        ∧ ((List.range group.members).filter (· ≠ group.failedSlot)).map (mappedChan group) ++ [spareChan group] = [0] ++ 2 :: [3]
        ∧ (∀ k ∈ [(0 : Chan)], linked.chans[k].linkPresent = true)
        ∧ (onChan 2 (fun r => { r with linkPresent := false }) linked).chans[(2 : Chan)].linkPresent = false)
      ∧ (Passes 3 (onChan 3 (fun r => { r with linkPresent := false }) linked) ∧ linked.session.state = .idle
        ∧ (onChan 3 (fun r => { r with linkPresent := false }) linked).chans[spareChan group].linkPresent = false)
      ∧ (Passes 3 (inSession (.running true)) ∧ (inSession (.running true)).session.longOp = none)
      ∧ (Passes 3 { inSession .lossStop with losses := fiveLosses, plan := { linked.plan with policy := { defaultPolicy with lossLimit := 5 } } }
        ∧ 5 ≤ fiveLosses.length)
      ∧ (Passes 3 (inLong .restoring .restore) ∧ (inLong .restoring .restore).session.longOp = some ⟨.restore, 9⟩)
      ∧ (Passes 3 (inSession .complete) ∧ (inSession .complete).session.longOp = none ∧ (inSession .complete).session.state = .complete)
      ∧ (Passes 3 (withEntry readEntry) ∧ (withEntry readEntry).queue ≠ []) := by
  refine ⟨⟨passes (by decide +kernel), by decide +kernel⟩, ⟨passes (by decide +kernel), by decide +kernel, by decide +kernel, by decide +kernel⟩,
    ⟨passes (by decide +kernel), by decide +kernel, by decide +kernel, by decide +kernel⟩,
    ⟨passes (by decide +kernel), by decide +kernel, by decide +kernel⟩, ⟨passes (by decide +kernel), by decide +kernel⟩,
    ⟨passes (by decide +kernel), by decide⟩, ⟨passes (by decide +kernel), by decide +kernel⟩,
    ⟨passes (by decide +kernel), by decide +kernel, by decide +kernel⟩, ⟨passes (by decide +kernel), by decide +kernel⟩⟩

theorem witness_StartAndRestoreBegin_start :
    Passes 3 linked ∧ linked.session.longOp = none ∧ linked.session.state = .idle ∧ linked.plan.array = some group
      ∧ arrayField group = none ∧ commitCheck group = none
      ∧ (∀ j, Surviving group j → linked.chans[mappedChan group j].linkPresent = true)
      ∧ linked.chans[spareChan group].linkPresent = true ∧ linked.chans[spareChan group].failed = false :=
  ⟨passes (by decide +kernel), by decide +kernel, by decide +kernel, by decide +kernel, by decide +kernel, by decide +kernel,
    fun j hj => by rcases survivors_of_group hj with rfl | rfl <;> decide +kernel, by decide +kernel, by decide +kernel⟩

theorem witness_StartAndRestoreBegin_hold :
    shows (fun t => (t.table.holdWaiting, told t)) (.start 3 (some ()))
        { linked with plan := { linked.plan with windows := (restaged .hold).plan.stagedWindows } }
      = some (true, [.session .starting, .held 2]) := by
  decide +kernel

theorem witness_StartAndRestoreBegin_restore :
    Passes 3 linked ∧ linked.session.longOp = none ∧ linked.session.state = .idle ∧ linked.plan.array = some group
      ∧ linked.chans[spareChan group].linkPresent = true ∧ linked.chans[spareChan group].failed = false :=
  ⟨passes (by decide +kernel), by decide +kernel, by decide +kernel, by decide +kernel, by decide +kernel, by decide +kernel⟩

/-- A trigger is on its way to the writer. -/
def triggered (s : State) : State := { s with mail := { s.mail with triggers := 1 } }

theorem witness_PauseBeginsPausing :
    Passes 3 (working .reading (.running false)) ∧ (working .reading (.running false)).session.longOp = none
      ∧ (working .reading (.running false)).lanes[(0 : Lane)].state ≠ .parked
      ∧ Passes 3 (inSession (.running false)) ∧ (∀ l : Lane, (inSession (.running false)).lanes[l].state = .parked)
      ∧ (inSession (.running false)).writer.state = .idle ∧ (inSession (.running false)).writer.next = .seq 1
      ∧ (inSession (.running false)).chans[spareChan group].failed = false
      ∧ Passes 3 (writingRecord .running 4 (inSession (.running false)))
      ∧ (writingRecord .running 4 (inSession (.running false))).writer.waiting = none
      ∧ silenced defaultPolicy .sessionState = false
      ∧ Passes 3 (triggered (inSession (.running false))) ∧ 0 < (triggered (inSession (.running false))).mail.triggers
      ∧ shows (fun t => (t.writer.state, t.writer.waiting)) (.pause 3 (some ())) (triggered (inSession (.running false)))
        = some (.writing ⟨.running, 1, .a⟩, some .paused)
      ∧ Passes 3 (onChan 3 (fun r => { r with failed := true }) (inSession (.running false)))
      ∧ (onChan 3 (fun r => { r with failed := true }) (inSession (.running false))).chans[spareChan group].failed = true :=
  ⟨passes (by decide +kernel), by decide +kernel, by decide +kernel, passes (by decide +kernel), by decide +kernel, by decide +kernel,
    by decide +kernel, by decide +kernel, passes (by decide +kernel), by decide +kernel, by decide, passes (by decide +kernel), by decide,
    by decide +kernel, passes (by decide +kernel), by decide +kernel⟩

/-- The next sequence is EXHAUSTED. -/
def exhausted (s : State) : State := { s with writer := { s.writer with next := .exhausted } }

theorem witness_PauseBeginsPausing_exhausted :
    Passes 3 (exhausted (inSession (.running false))) ∧ (exhausted (inSession (.running false))).writer.state = .idle
      ∧ (exhausted (inSession (.running false))).writer.next = .exhausted
      ∧ (exhausted (inSession (.running false))).chans[spareChan group].failed = false
      ∧ shows (fun t => (t.writer.state, t.chans[3].failed, t.mail.told)) (.pause 3 (some ())) (exhausted (inSession (.running false)))
        = some (.idle, true, [⟨3, .target⟩]) :=
  ⟨passes (by decide +kernel), by decide +kernel, by decide +kernel, by decide +kernel, by decide +kernel⟩

theorem witness_ContinueRunsTheSession :
    Passes 3 (inSession .lossStop) ∧ (inSession .lossStop).losses.length < (inSession .lossStop).plan.policy.lossLimit
      ∧ (∃ r ∈ (inSession .lossStop).table.extents, r.isCandidate = true) ∧ (∃ r ∈ (inSession .lossStop).table.extents, r.state ≠ .done)
      ∧ (∀ l : Lane, (inSession .lossStop).lanes[l].state = .parked)
      ∧ (inSession .lossStop).governor.effective ≤ (inSession .lossStop).governor.target
      ∧ Passes 3 { inSession .paused with table := { ExtentTable.empty with extents := [⟨.done, .hold⟩] } }
      ∧ ∀ r ∈ [ExtentRec.mk .done .hold], r.state = .done :=
  ⟨passes (by decide +kernel), by decide +kernel, by decide +kernel, by decide +kernel, by decide +kernel, by decide +kernel,
    passes (by decide +kernel), by decide +kernel⟩

/-- Every extent is DONE. -/
def allRebuilt (s : State) : State := { s with table := { s.table with extents := s.table.extents.map fun r => { r with state := .done } } }

theorem witness_ContinueRunsTheSession_complete :
    (∀ r ∈ (allRebuilt (inSession .paused)).table.extents, r.state = .done)
      ∧ shows (fun t => (t.session.state, t.writer.state, t.chans[3].rebuildPending.length)) (.continueSession 3 (some ()))
          (allRebuilt (inSession .paused)) = some (.running true, .writing ⟨.complete, 1, .a⟩, 1)
      ∧ shows (fun t => t.writer.waiting) (.continueSession 3 (some ())) (writingRecord .running 4 (allRebuilt (inSession .paused)))
        = some (some .complete)
      ∧ shows (fun t => (t.writer.state, t.mail.told)) (.continueSession 3 (some ())) (exhausted (allRebuilt (inSession .paused)))
        = some (.idle, [⟨3, .target⟩])
      ∧ shows (fun t => t.writer.state) (.continueSession 3 (some ()))
          (onChan 3 (fun r => { r with failed := true }) (allRebuilt (inSession .paused))) = some .idle := by
  decide +kernel

theorem witness_AbortDrainsTheSession :
    Passes 3 (inLong (.pausing .request) .pause) ∧ (∃ op, (inLong (.pausing .request) .pause).session.longOp = some op ∧ op.kind = .pause)
      ∧ Passes 3 (working .writing (.running false)) ∧ (working .writing (.running false)).session.longOp = none
      ∧ (working .writing (.running false)).lanes[(0 : Lane)].extent = some 0
      ∧ (working .writing (.running false)).table.extents[0]? = some ⟨.active 3 0, .normal⟩
      ∧ LanesWaitAsTheySay (working .writing (.running false)) ∧ HeldExtent (working .writing (.running false)) 0 0
      ∧ LanesWaitAsTheySay (working .bufferWait (.running false)) ∧ LanesWaitAsTheySay (working .reading (.running false)) :=
  ⟨passes (by decide +kernel), ⟨_, rfl, rfl⟩, passes (by decide +kernel), by decide +kernel, by decide +kernel, by decide +kernel,
    by simp only [LanesWaitAsTheySay]; decide +kernel, .inl (by decide +kernel), by simp only [LanesWaitAsTheySay]; decide +kernel,
    by simp only [LanesWaitAsTheySay]; decide +kernel⟩

/-- A lane that lets go of the only extent not held back: the flag is set, and in DRAINING no notice tells of it (R67, R71). -/
theorem witness_AbortDrainsTheSession_hold :
    shows (fun t => (t.table.holdWaiting, told t, t.table.extents.map (·.state))) (.abort 3 (some ()))
        (onHold (working .writing (.running false))) = some (true, [.session .draining], [.partDone 3, .pending])
      ∧ HeldExtent (onHold (working .writing (.running false))) 0 0 ∧ LanesWaitAsTheySay (onHold (working .writing (.running false))) :=
  ⟨by decide +kernel, .inl (by decide +kernel), by simp only [LanesWaitAsTheySay]; decide +kernel⟩

theorem witness_ReleaseReturnsToIdle :
    Passes 3 (inSession .targetFailed) ∧ (inSession .targetFailed).queue = [] ∧ orphanCount (inSession .targetFailed) = 0
      ∧ (inSession .targetFailed).writer.state = .idle ∧ (inSession .targetFailed).writer.waiting = none :=
  ⟨passes (by decide +kernel), by decide +kernel, by decide +kernel, by decide +kernel, by decide +kernel⟩

theorem witness_DispatchChecksInOrder :
    ¬ Receives (crowded linked) ∧ 15 ≤ (crowded linked).link.replies.length ∧ Accepts linked
      ∧ Accepts (inLong .starting .start) ∧ tagOutstanding (inLong .starting .start) 9 = true
      ∧ (Instr.querySession 9 (some ())).record = some (9, .querySession (some ()))
      ∧ Passes 3 linked ∧ (Instr.commit 3 none).record = some (3, .commit none) ∧ parses (.commit none) = false
      ∧ { linked.link with held := [.record 3 .reset] }.replies.length < 15 :=
  ⟨fun h => absurd h.1 (by decide +kernel), by decide +kernel, accepts (by decide +kernel),
    accepts (by decide +kernel), by decide +kernel, rfl, passes (by decide +kernel), rfl, rfl, by decide +kernel⟩

/-- Some things are held back on the control link. -/
def holding (xs : List Inbound) (s : State) : State := { s with link := { s.link with held := xs } }

theorem witness_DispatchChecksInOrder_bytes :
    ¬ Receives (holding [.bytes [1]] linked)
      ∧ shows (fun t => t.link.held) (.linkError [2]) (holding [.bytes [1]] linked) = some [.bytes [1], .bytes [2]]
      ∧ (holding [.bytes (frame 0x0C 7 [])] linked).link.replies.length < 15
      ∧ shows (fun t => ((owed t.link).map (·.tag), t.link.held)) .heldRecordDispatch
          (holding [.bytes (frame 0x0C 7 []), .bytes [9]] linked) = some ([7], [.bytes [9]])
      ∧ shows (fun t => t.link.held) .heldRecordDispatch (holding [.bytes (frame 0x02 7 []), .bytes [9]] linked) = some [] :=
  ⟨fun h => absurd h.2 (by decide +kernel), by decide +kernel, by decide +kernel, by decide +kernel, by decide +kernel⟩

/-- A frame of a number of body bytes has been begun, and none of them gathered yet. -/
def midFrame (len : Byte) (s : State) : State :=
  { s with link := { s.link with gathered := [0xD2, 0x4B, 0x0C, 0, 1, 0, 0, 0, len], hunting := .frame } }

/-- A PAUSE that arrives in FRAME is gathered into the frame: while that goes on nothing is answered; where the frame is whole with it, its
check is wrong, and the PAUSE is found in the bytes behind its start code (R175). -/
theorem witness_DispatchChecksInOrder_frame :
    Receives (midFrame 2 linked) ∧ (midFrame 2 linked).link.hunting = .frame
      ∧ (Instr.pause 7 (some ())).record = some (7, .pause (some ()))
      ∧ ((Instr.pause 7 (some ())).wellFormed = true ∧ typeCode (.pause (some ())) ∉ [0x03#8, 0x04#8, 0x05#8, 0x06#8, 0x07#8, 0x0E#8, 0x0F#8])
      ∧ shows (fun t => ((owed t.link).map (·.tag), told t, t.link.hunting, t.link.gathered)) (.pause 7 (some ())) (midFrame 2 linked)
        = some ([7], [.linkError .check 0x0C], .hunt, [])
      ∧ shows (fun t => ((owed t.link).map (·.tag), told t, t.link.hunting, t.link.gathered.length)) (.pause 7 (some ()))
          (midFrame 60 linked) = some ([], [], .frame, 22)
      ∧ shows (fun t => ((owed t.link).map (·.tag), told t, t.link.held)) .heldRecordDispatch
          (holding [.record 7 (.pause (some ())), .bytes [9]] (midFrame 2 linked)) = some ([7], [.linkError .check 0x0C], [.bytes [9]])
      ∧ requestOf 0x10 (bodyBytes (.readBlocks (some ⟨8, 3⟩))) = .readBlocks (some ⟨8, 3⟩)
      ∧ requestOf 0x11 (bodyBytes (.writeBlocks (some ⟨8, 1, [5]⟩))) = .writeBlocks (some ⟨8, 1, [5]⟩) :=
  ⟨⟨by decide +kernel, by decide +kernel⟩, by decide +kernel, rfl, by decide, by decide +kernel, by decide +kernel, by decide +kernel,
    by decide +kernel, by decide +kernel⟩

/-- Bytes without a start code, as a list shows it. -/
theorem noStart_of (bs : List Byte) (h : ∀ i < bs.length, bs[i]? = some 0xD2#8 → bs[i + 1]? ≠ some 0x4B#8) : NoStart bs := by
  intro i
  by_cases hi : i < bs.length
  · exact h i hi
  · simp [List.getElem?_eq_none (Nat.le_of_not_lt hi)]

theorem witness_FramesAreJudged :
    Receives linked ∧ linked.link.carried = [] ∧ NoStart [0xD2#8] ∧ silenced linked.plan.policy .linkError = false
      ∧ (bytesToNat [0, 2, 0, 65] = 131137 ∧ NoStart [0x0C, 0, 1, 0, 2, 0, 65])
      ∧ (bytesToNat [0, 0, 0, 0] = 0
        ∧ bytesToNat (([0, 0, 0, 0, 0xD2] : List Byte).take 4) ≠ (crc32 [0x0C, 0, 1, 0, 0, 0, 0]).toNat
        ∧ NoStart [0x0C, 0, 1, 0, 0, 0, 0, 0, 0, 0, 0, 0xD2] ∧ startOf [0x0C, 0, 1, 0, 0, 0, 0, 0, 0, 0, 0, 0xD2] = [0xD2])
      ∧ (bytesToNat [0, 2, 0, 64] = 131136 ∧ ([1, 2] : List Byte).length < 131136 + 4)
      ∧ frame 0x0C 7 [] = [0xD2, 0x4B, 0x0C, 0, 7, 0, 0, 0, 0] ++ (frame 0x0C 7 []).drop 9
      ∧ bytesToNat ((((frame 0x0C 7 []).drop 9).drop 0).take 4) = (crc32 [0x0C, 0, 7, 0, 0, 0, 0]).toNat
      ∧ ((dispatch 7 (requestOf 0x0C []) (backToHunt linked)).link.replies.length < 15)
      ∧ (dispatch 7 (requestOf 0x0C []) (backToHunt { linked with link := { (crowded linked).link with
          replies := (crowded linked).link.replies.drop 1 } })).link.replies.length = 15 :=
  ⟨⟨by decide +kernel, by decide +kernel⟩, by decide +kernel, noStart_of _ (by decide), by decide +kernel, ⟨by decide +kernel, noStart_of _ (by decide)⟩,
    ⟨by decide +kernel, by decide +kernel, noStart_of _ (by decide), by decide⟩, ⟨by decide +kernel, by decide⟩, by decide +kernel,
    by decide +kernel, by decide +kernel, by decide +kernel⟩

/-- A body that the manual lays out parses by its length, and for a WRITE-BLOCKS its count, whatever malformed request was gathered before
(R176, check 4). -/
theorem witness_FramesAreJudged_laidOut :
    requestFrom [.identify none, .start none] 0x01 [] = .identify (some ()) ∧ requestFrom [.identify none] 0x01 [0] = .identify none
      ∧ requestFrom [.readBlocks none] 0x10 (runBytes 8 3) = .readBlocks (some ⟨8, 3⟩)
      ∧ parses (requestFrom [.readBlocks none] 0x10 (List.replicate 15 0)) = false
      ∧ parses (requestFrom [.writeBlocks none] 0x11 (runBytes 8 0)) = true
      ∧ parses (requestFrom [.writeBlocks none] 0x11 (runBytes 8 1)) = false
      ∧ parses (requestFrom [.writeBlocks none] 0x11 (runBytes 8 1 ++ List.replicate 4096 0)) = true := by
  decide +kernel

theorem witness_FramesAreJudged_searchedAgain :
    (bytesToNat [0, 2, 0, 65] = 131137 ∧ ¬ NoStart ([0x0C, 0, 1, 0, 2, 0, 65] ++ frame 0x0C 7 []))
      ∧ shows lastOwed (.linkError ([0xD2, 0x4B, 0x0C, 0, 1, 0, 2, 0, 65] ++ frame 0x0C 7 [])) linked
        = some (some ⟨7, 0x0C, .refused .state, .none⟩)
      ∧ requestOf 0x0C [] ≠ .reset ∧ requestOf 0x02 [] = .reset
      ∧ shows (fun t => (owed t.link).map (·.tag)) (.linkError (frame 0x0C 7 [] ++ frame 0x0D 8 [])) linked = some [7, 8]
      ∧ shows (fun t => (owed t.link).map (·.tag)) (.linkError (frame 0x02 7 [] ++ frame 0x0D 8 [])) linked = some [] :=
  ⟨⟨by decide +kernel, fun h => absurd (h 7 (by decide +kernel)) (by decide +kernel)⟩, by decide +kernel, by decide +kernel, by decide +kernel,
    by decide +kernel, by decide +kernel⟩

/-- Stripe 3 held EXCLUSIVE, with a REBUILD, a SHARED and an EXCLUSIVE waiter. -/
def queuedLock : LockEntry :=
  { stripe := 3, holders := [⟨.fg 2, .exclusive⟩], waiters := [⟨.lane 0, .rebuild⟩, ⟨.fg 5, .shared⟩, ⟨.fg 6, .exclusive⟩] }

/-- A pool in which a foreground and a lane request wait. -/
def queuedPool : BufferPool :=
  { free := [0, 1], held := [⟨.fg 2, [2, 3, 4]⟩], fgWait := [⟨.fg 5, 3⟩], laneWait := [⟨.lane 0, 2⟩, ⟨.lane 1, 2⟩] }

theorem witness_LocksAndBuffersAreServedInOrder :
    lockEntry? [queuedLock] 3 = some queuedLock ∧ lockEntry? [queuedLock] 4 = none
      ∧ ((releaseLock (.fg 2) 3 { inSession .paused with locks := [queuedLock] }).locks,
          (releaseLock (.fg 2) 3 { inSession .paused with locks := [queuedLock] }).mail.grants)
        = ([{ stripe := 3, holders := [⟨.lane 0, .rebuild⟩, ⟨.fg 5, .shared⟩], waiters := [⟨.fg 6, .exclusive⟩] }], [.lane 0, .fg 5])
      ∧ (withdrawLock (.lane 0) 3 { inSession .paused with locks := [queuedLock] }).locks
        = [{ queuedLock with waiters := [⟨.fg 5, .shared⟩, ⟨.fg 6, .exclusive⟩] }]
      ∧ (heldBy (.fg 2) queuedPool).length = 3
      ∧ (releaseBuffers (.fg 2) { inSession .paused with pool := queuedPool }).mail.reservations = [.fg 5, .lane 0]
      ∧ (withdrawBuffers 0 { inSession .paused with pool := queuedPool }).pool.laneWait = [⟨.lane 1, 2⟩] := by
  decide +kernel

/-- An enabled window of class HOLD on the extents whose index is odd. -/
def oddWindow : Window := { enable := true, base := 1, mask := 1, cls := .hold }

theorem witness_ExtentTableAnswers :
    Matches oddWindow 4095 ∧ ¬ Matches oddWindow 2 ∧ ¬ Matches { oddWindow with enable := false } 1
      ∧ SpareUsed (.pausing .loss) ∧ ¬ SpareUsed .complete
      ∧ Rebuilt group { ExtentTable.empty with extents := [⟨.active 3 0, .normal⟩] } 2
      ∧ ¬ Rebuilt group { ExtentTable.empty with extents := [⟨.active 3 0, .normal⟩] } 3
      ∧ Rebuilt group { ExtentTable.empty with extents := [⟨.active 3 0, .normal⟩], ahead := [3] } 3 ∧ 256 ≤ (List.range 256).length := by
  refine ⟨⟨rfl, by decide⟩, fun h => absurd (h.2 0 (by decide)) (by decide), fun h => absurd h.1 (by decide), .inr (.inl ⟨_, rfl⟩), ?_,
    .inr ⟨_, rfl, .inr ⟨3, .inr ⟨0, rfl⟩, by decide⟩⟩, ?_, .inl (by decide), by simp⟩
  · simp [SpareUsed]
  · rintro (h | ⟨r, h, hr⟩)
    · exact absurd h (by decide)
    · obtain rfl : ExtentRec.mk (.active 3 0) .normal = r := by simpa [group] using h
      simp [group] at hr

theorem witness_SenderChoosesRepliesThenUrgentThenRoutine :
    State.reset.link.sender = .sending (.notice (.ready .power)) ∧ State.reset.link.replies = [] ∧ State.reset.link.notices = []
      ∧ (crowded State.reset).link.replies ≠ []
      ∧ { State.reset.link with notices := [⟨.extentDone, 255, 1, 1, .extent 0⟩] }.notices ≠ []
      ∧ noticeClass defaultPolicy .extentDone = .routine := by
  decide +kernel

/-! ## The statements' hypotheses are met: foreground requests and strip links -/

theorem witness_ForegroundRequestsAreRefusedInOrder :
    (WriteFields.mk 0 1 [0]).whole = true ∧ Passes 3 (inSession .draining) ∧ (inSession .draining).session.state = .draining
      ∧ Passes 3 (inSession .paused) ∧ (inSession .paused).plan.array = some group
      ∧ (inSession .paused).session.state ∉ [.idle, .starting, .restoring, .draining] ∧ ¬ (1 ≤ 33 ∧ 33 ≤ 32) ∧ ¬ (1 ≤ 0 ∧ 0 ≤ 32)
      ∧ capacity group < 2393 + 8 ∧ 7 + 2 ≤ capacity group ∧ 7 / stripeData group ≠ (7 + 2 - 1) / stripeData group
      ∧ 2392 + 8 ≤ capacity group ∧ 2392 / stripeData group = (2392 + 8 - 1) / stripeData group
      ∧ Passes 3 { inSession .paused with queue := List.replicate 32 readEntry } ∧ 32 ≤ (List.replicate 32 readEntry).length :=
  ⟨by decide, passes (by decide +kernel), by decide +kernel, passes (by decide +kernel), by decide +kernel, by decide +kernel, by decide,
    by decide, by decide, by decide, by decide, by decide, by decide, passes (by decide +kernel), by decide⟩

theorem witness_ForegroundRequestsJoinTheQueue :
    Passes 3 (inSession .paused) ∧ (inSession .paused).session.state ∉ [.idle, .starting, .restoring, .draining]
      ∧ (inSession .paused).plan.array = some group ∧ 2392 + 8 ≤ capacity group
      ∧ 2392 / stripeData group = (2392 + 8 - 1) / stripeData group ∧ (inSession .paused).queue.length < 32
      ∧ lockEntry? (inSession .paused).locks 299 = none ∧ (inSession .paused).pool.fgWait = []
      ∧ group.members ≤ (inSession .paused).pool.free.length
      ∧ Passes 3 { inSession .paused with pool := { State.reset.pool with free := [0, 1] } } ∧ [0, 1].length < group.members
      ∧ Passes 3 (working .reading (.running false))
      ∧ lockEntry? (working .reading (.running false)).locks 3 = some ⟨3, [⟨.lane 0, .rebuild⟩], []⟩
      ∧ 24 / stripeData group = 3 ∧ MayJoin .shared [⟨.lane 0, .rebuild⟩] ∧ ¬ MayJoin .exclusive [⟨.lane 0, .rebuild⟩] :=
  ⟨passes (by decide +kernel), by decide +kernel, by decide +kernel, by decide, by decide, by decide +kernel, by decide +kernel,
    by decide +kernel, by decide +kernel, passes (by decide +kernel), by decide, passes (by decide +kernel), by decide +kernel, by decide,
    by simp [MayJoin], by simp [MayJoin]⟩

theorem witness_PhasesArePlanned :
    Serves group true 1 3 ∧ Serves group false 0 0 ∧ Missing group false linked 1 ∧ ¬ Missing group true linked 1
      ∧ (∃ r ∈ fiveLosses, r.stripe = 4) ∧ (fiveLosses.map (·.stripe)).Nodup ∧ (∀ r ∈ fiveLosses, r.stripe ≠ 5)
      ∧ (readCmds group (judgePhase group 0 linked) linked fun _ => [3, 1]).map (fun q => (q.slot, q.chan, q.first, q.count))
        = [(0, 0, 1, 3), (2, 2, 1, 3)]
      ∧ (writeCmds group (judgePhase group 0 (inSession .paused)) (inSession .paused) fun _ => true).map (fun q => (q.slot, q.chan, q.spare))
        = [(0, 0, false), (2, 2, false), (1, 3, true)] := by
  refine ⟨.inr (by decide), .inl (by decide), ?_, ?_, ?_⟩
  · rintro c (⟨h, -⟩ | ⟨-, h, -⟩)
    · exact absurd rfl h
    · exact absurd h (by decide)
  · exact fun h => absurd (h 3 (.inr (by decide))) (by decide +kernel)
  · decide +kernel

/-- The ending a foreground operation takes next on a channel. -/
def fgEnding (write : Bool) (c : Chan) (s : State) : Option Ending := (takeEnding (.fg 5) write (some c) s).map (·.1)

theorem witness_ForegroundReadEndings :
    (withEntry readEntry).plan.array = some group ∧ fgEntry 5 (withEntry readEntry) = some readEntry
      ∧ outstandingOn readEntry.plan 0 = some ⟨0, 0, false, 0, 1, 1, .outstanding⟩
      ∧ (fgEnding false 0 (ending 0 (.fg 5) false .rejected (withEntry readEntry))).map (·.status) = some .rejected
      ∧ 1 ≤ (withEntry readEntry).plan.policy.retryLimit ∧ (withEntry readEntry).chans[(0 : Chan)].failed = false
      ∧ (fgEnding false 0 (ending 0 (.fg 5) false (.good [7]) (withEntry readEntry))).map (·.status) = some (.good [7])
      ∧ (fgEnding false 0 (ending 0 (.fg 5) false .memberFailed (withEntry readEntry))).map (·.status) = some .memberFailed
      ∧ (∃ r ∈ (setCmd ⟨0, 0, false, 0, 1, 3, .failed⟩
          { readEntry.plan with cmds := readEntry.plan.cmds ++ [⟨2, 2, false, 0, 1, 1, .outstanding⟩] }).cmds, r.outcome = .outstanding)
      ∧ (0 + 1 ≤ 2 ∧ ([8] : List Block).length = 2 - 1)
      ∧ blockAt (storeBlocks ⟨0, 0, false, 0, 2, 1, .outstanding⟩ (spread 2 0 1 [8]) readEntry).bufs 0 1 = some 8
      ∧ blockAt (storeBlocks ⟨0, 0, false, 0, 2, 1, .outstanding⟩ (spread 2 0 1 [8]) readEntry).bufs 0 0 = none := by
  decide +kernel

/-- A read of one block of a slot in its last phase but for the command to channel 0, with slot 2's block 9 held. -/
def lastRead (lba : Nat) (missing : List Nat) (stage : FgStage) (wanted : List (Nat × Nat)) : FgEntry :=
  { readEntry with
    lba, stage, bufs := putBlock 2 0 9 (emptyBuffers group)
    plan := { readEntry.plan with missing, wanted, cmds := readEntry.plan.cmds ++ [⟨2, 2, false, 0, 1, 1, .good⟩] } }

/-- What the ending of the last read makes of the replies and of the phase. -/
def readShows (e : FgEntry) (st : EndStatus) (s : State) : Option (Option Reply × List FgStage) :=
  shows (fun t => (lastOwed t, t.queue.map (·.stage))) (.fgReadCompletion 5 0)
    (ending 0 (.fg 5) false st { s with queue := [e] })

theorem witness_ReadsEndWithTheirPhases :
    fgEntry 5 (withEntry (lastRead 4 [1] .readPhase [])) = some (lastRead 4 [1] .readPhase [])
      ∧ (outstandingOn (lastRead 4 [1] .readPhase []).plan 0).isSome = true ∧ (lastRead 4 [1] .readPhase []).unrecoverable = none
      ∧ BufsFit group (lastRead 4 [1] .readPhase []) ∧ RunFits group (lastRead 4 [1] .readPhase [])
      ∧ arrayField group = none ∧ commitCheck group = none
      ∧ readShows (lastRead 4 [1] .readPhase []) (.good [7]) (inSession .paused) = some (some (done 5 0x10 (.blocks [14])), [])
      ∧ readShows (lastRead 4 [1] .readPhase []) .memberFailed (inSession .paused) = some (some ⟨5, 0x10, .lostData 4, .none⟩, [])
      ∧ readShows (lastRead 0 [] .readPhase []) .memberFailed (inSession .paused) = some (some ⟨5, 0x10, .lostData 0, .none⟩, [])
      ∧ readShows (lastRead 0 [] .readPhase []) .memberFailed (inSession .complete) = some (none, [.reconstructPhase])
      ∧ readShows (lastRead 4 [] .reconstructPhase [(1, 0)]) (.good [7]) (inSession .complete)
        = some (some (done 5 0x10 (.blocks [14])), [])
      ∧ readShows (lastRead 4 [] .reconstructPhase [(1, 0)]) .memberFailed (inSession .complete)
        = some (some ⟨5, 0x10, .lostData 4, .none⟩, []) := by
  refine ⟨by decide +kernel, by decide +kernel, by decide +kernel, ⟨by decide +kernel, by decide +kernel⟩,
    ⟨by decide +kernel, by decide +kernel, by decide +kernel⟩, ?_⟩
  decide +kernel

/-- Monitor 0 counts FG-RECONSTRUCT and monitor 1 FG-LATE; the clock is past the latency budget of a request that arrived at 0. -/
def watched (s : State) : State :=
  { s with
    now := 201
    monitors := #v[{ Monitor.reset with event := .fgReconstruct, filter := .always, enable := true },
      { Monitor.reset with event := .fgLate, filter := .always, enable := true }, Monitor.reset, Monitor.reset] }

/-- The counts of monitors 0 and 1 after the ending of the last read. -/
def countsAfter (e : FgEntry) (st : EndStatus) (s : State) : Option (List Word32) :=
  shows (fun t => [t.monitors[0].count, t.monitors[1].count]) (.fgReadCompletion 5 0) (ending 0 (.fg 5) false st { s with queue := [e] })

theorem witness_ReadsEndWithTheirPhases_events :
    countsAfter (lastRead 4 [1] .readPhase []) (.good [7]) (watched (inSession .paused)) = some [1, 1]
      ∧ countsAfter (lastRead 4 [1] .readPhase []) .memberFailed (watched (inSession .paused)) = some [0, 1]
      ∧ countsAfter (lastRead 4 [1] .readPhase []) (.good [7]) { watched (inSession .paused) with now := 200 } = some [1, 0]
      ∧ countsAfter (lastRead 4 [] .reconstructPhase [(1, 0)]) (.good [7]) (watched (inSession .complete)) = some [1, 1]
      ∧ countsAfter { lastRead 4 [] .reconstructPhase [(1, 0)] with reconstructed := true } .memberFailed (watched (inSession .complete))
        = some [1, 1] := by
  decide +kernel

/-- A copy on the spare that a loss record covers when the phase ends is not obtained: the read answers LOST-DATA (R15). -/
theorem test_lostCopyIsNotReturned :
    readShows { lastRead 4 [] .readPhase [] with plan := { readEntry.plan with cmds := [⟨1, 0, false, 0, 1, 1, .outstanding⟩] } } (.good [7])
        { inSession .complete with losses := [⟨0, 0, 1, 0, .medium⟩] }
      = some (none, [.reconstructPhase]) := by
  decide +kernel

/-- A write of one block of stripe 0 whose read phase lacks only the command to channel 0. -/
def lastWriteRead (held : List (List (Option Block))) : FgEntry :=
  { lastRead 0 [1] .readPhase [] with write := true, blocks := [6], bufs := held }

theorem witness_PartialWritesReadThenWrite :
    fgEntry 5 (withEntry (lastWriteRead (emptyBuffers group))) = some (lastWriteRead (emptyBuffers group))
      ∧ BufsFit group (lastWriteRead (emptyBuffers group)) ∧ RunFits group (lastWriteRead (emptyBuffers group))
      ∧ (lastWriteRead (emptyBuffers group)).blocks.length = 1
      ∧ readShows (lastWriteRead (emptyBuffers group)) (.good [7]) (inSession (.halted .secondMember))
        = some (some (refusal 5 0x11 .arrayHalted), [])
      ∧ readShows (lastWriteRead (emptyBuffers group)) (.good [7]) (inSession .paused) = some (some ⟨5, 0x11, .unrecoverable, .none⟩, [])
      ∧ readShows (lastWriteRead [List.replicate 4 (some 1), List.replicate 4 none, List.replicate 4 (some 2)]) (.good [7])
          (inSession .paused) = some (none, [.writePhase])
      ∧ (judgePhase group 0 (inSession .paused)).missing.length < 2 := by
  refine ⟨by decide +kernel, ⟨by decide +kernel, by decide +kernel⟩, ⟨by decide +kernel, by decide +kernel, by decide +kernel⟩, ?_⟩
  decide +kernel

theorem witness_PartialWritesReadThenWrite_events :
    countsAfter (lastWriteRead (emptyBuffers group)) (.good [7]) (watched (inSession (.halted .secondMember))) = some [0, 1]
      ∧ countsAfter (lastWriteRead [List.replicate 4 (some 1), List.replicate 4 none, [some 2, none, none, none]]) (.good [7])
          (watched (inSession .paused)) = some [1, 1] := by
  decide +kernel

/-- The last write of a full-stripe write ends: its lock and its buffers go, its stripe's record goes and LOSS-CLEARED tells so, and the
events of its end are raised (R129 to R131). -/
theorem witness_ForegroundWriteEndings_end :
    shows (fun t => ((t.locks, t.pool.held.map (·.op)), (t.losses, told t), [t.monitors[0].count, t.monitors[1].count]))
        (.fgWriteCompletion 5 3) (ending 3 (.fg 5) true (.good []) { watched (inSession .paused) with
          queue := [{ writeEntry true [] with reconstructed := true }], losses := [⟨0, 1, 2, 0, .medium⟩]
          locks := [{ stripe := 0, holders := [⟨.fg 5, .exclusive⟩], waiters := [] }]
          pool := { State.reset.pool with free := List.range' 3 381, held := [⟨.fg 5, [0, 1, 2]⟩] } })
      = some (([], []), ([], [.stripe 0]), [1, 1])
      ∧ silenced defaultPolicy .lossCleared = false ∧ (∃ r ∈ [LossRec.mk 0 1 2 0 .medium], r.stripe = (writeEntry true []).stripe)
      ∧ shows (fun t => (t.pool.held, t.locks, t.chans[3].failed)) (.fgWriteCompletion 5 3)
          (ending 3 (.fg 5) true .timeout { withEntry (writeEntry true []) with
            locks := [{ stripe := 0, holders := [⟨.fg 5, .exclusive⟩], waiters := [] }]
            pool := { State.reset.pool with free := List.range' 3 381, held := [⟨.fg 5, [0, 1, 2]⟩] } }) = some ([], [], true)
      ∧ ∀ w ∈ State.reset.pool.fgWait ++ State.reset.pool.laneWait, w.op ≠ .fg 5 := by
  decide +kernel

theorem witness_ForegroundWriteEndings :
    fgEntry 5 (withEntry (writeEntry true [])) = some (writeEntry true []) ∧ (writeEntry true []).write = true
      ∧ outstandingOn (writeEntry true []).plan 3 = some ⟨1, 3, true, 0, 4, 1, .outstanding⟩
      ∧ (fgEnding true 3 (ending 3 (.fg 5) true (.good []) (withEntry (writeEntry true [])))).map (·.status) = some (.good [])
      ∧ (∀ r ∈ (setCmd ⟨1, 3, true, 0, 4, 1, .good⟩ (writeEntry true []).plan).cmds, r.outcome ≠ .outstanding)
      ∧ (fgEnding true 3 (ending 3 (.fg 5) true .timeout (withEntry (writeEntry false [⟨0, 0, false, 0, 4, 1, .outstanding⟩])))).map (·.status)
        = some .timeout
      ∧ (∃ r ∈ (setCmd ⟨1, 3, true, 0, 4, 1, .failed⟩ (writeEntry false [⟨0, 0, false, 0, 4, 1, .outstanding⟩]).plan).cmds,
          r.outcome = .outstanding)
      ∧ ∃ r ∈ (setCmd ⟨1, 3, true, 0, 4, 1, .good⟩ (writeEntry false [⟨0, 0, false, 0, 4, 1, .failed⟩]).plan).cmds,
          r.spare = false ∧ r.outcome ≠ .good := by
  decide +kernel

/-- A command issued on channel 0 as number 5. -/
def issuedOn (issuer : Issuer) (write : Bool) : State :=
  onChan 0 (fun r => { r with issued := [⟨5, ⟨issuer, write, 12, 4, []⟩, 5000⟩] }) (inSession .paused)

theorem witness_CompletionsReachTheirIssuer :
    (∀ i ∈ linked.chans[(0 : Chan)].issued, i.number ≠ 5) ∧ silenced linked.plan.policy .lateCompletion = false
      ∧ (⟨5, ⟨.fg 2, false, 12, 4, []⟩, 5000⟩ : Issued) ∈ (issuedOn (.fg 2) false).chans[(0 : Chan)].issued
      ∧ ((issuedOn (.fg 2) false).chans[(0 : Chan)].issued.map (·.number)).Nodup ∧ [(1 : Block), 2, 3, 4].length = 4
      ∧ (issuedOn (.fg 2) false).chans[(0 : Chan)].role ≠ .unused ∧ linked.chans[(0 : Chan)].role = .unused
      ∧ (⟨5, ⟨.fg 2, true, 12, 4, []⟩, 5000⟩ : Issued) ∈ (issuedOn (.fg 2) true).chans[(0 : Chan)].issued
      ∧ (1 ≤ 4 ∧ 12 ≤ 12 ∧ 12 + 4 ≤ 12 + 4) ∧ (15 < 12 ∨ 12 + 4 < 15 + 2) ∧ [(1 : Block)].length ≠ 4 ∧ [(1 : Block), 2].length = 4 - 2
      ∧ (⟨5, ⟨.orphan 1, true, 12, 4, []⟩, 5000⟩ : Issued) ∈ (issuedOn (.orphan 1) true).chans[(0 : Chan)].issued
      ∧ shows (orphansOf 1) (.stripCompletion 0 5 (.good [])) (issuedOn (.orphan 1) true) = some 0
      ∧ (issuedOn (.orphan 1) true).pool.fgWait = [] ∧ (issuedOn (.orphan 1) true).pool.laneWait = [] := by
  decide +kernel

theorem witness_LinkIndicationsAreTaken :
    linked.chans[(0 : Chan)].role = .unused ∧ (inSession .paused).chans[(0 : Chan)].role ≠ .unused
      ∧ (inSession .paused).chans[(0 : Chan)].failed = false ∧ silenced (inSession .paused).plan.policy .memberFailed = false
      ∧ linked.chans[(0 : Chan)].resetAwaited = false ∧ State.reset.chans[(0 : Chan)].resetAwaited = true
      ∧ State.reset.chans[(0 : Chan)].fgPending = [] ∧ State.reset.chans[(0 : Chan)].rebuildPending = [] := by
  decide +kernel

theorem witness_CommandTimersEndTheirCommands :
    (∀ i ∈ linked.chans[(0 : Chan)].issued, i.number ≠ 5)
      ∧ (⟨5, ⟨.fg 2, false, 12, 4, []⟩, 5000⟩ : Issued) ∈ (issuedOn (.fg 2) false).chans[(0 : Chan)].issued
      ∧ ((issuedOn (.fg 2) false).chans[(0 : Chan)].issued.map (·.number)).Nodup
      ∧ (⟨5, ⟨.fg 2, true, 12, 4, []⟩, 5000⟩ : Issued) ∈ (issuedOn (.fg 2) true).chans[(0 : Chan)].issued
      ∧ (⟨5, ⟨.orphan 1, true, 12, 4, []⟩, 5000⟩ : Issued) ∈ (issuedOn (.orphan 1) true).chans[(0 : Chan)].issued
      ∧ ((issuedOn (.orphan 1) true).chans[(0 : Chan)].issued.map (·.number)).Nodup
      ∧ shows (orphansOf 1) (.commandTimeout 0 5) (issuedOn (.orphan 1) true) = some 0 := by
  decide +kernel

/-- Channel 0 with pending commands. -/
def queued (fg rebuild : List StripCmd) : State := onChan 0 (fun r => { r with fgPending := fg, rebuildPending := rebuild }) linked

theorem witness_IssueSendsTheHeadCommand :
    (linked.chans[(0 : Chan)].fgPending = [] ∧ linked.chans[(0 : Chan)].rebuildPending = [])
      ∧ State.reset.chans[(0 : Chan)].linkPresent = false
      ∧ 4 ≤ (onChan 0 (fun r => { r with issued := List.replicate 4 ⟨0, ⟨.fg 2, false, 0, 1, []⟩, 5⟩ }) linked).chans[(0 : Chan)].issued.length
      ∧ (queued [⟨.fg 2, false, 0, 1, []⟩] [⟨.lane 0, false, 0, 4, []⟩]).chans[(0 : Chan)].failed = false
      ∧ (queued [⟨.fg 2, false, 0, 1, []⟩] [⟨.lane 0, false, 0, 4, []⟩]).chans[(0 : Chan)].linkPresent = true
      ∧ (queued [⟨.fg 2, false, 0, 1, []⟩] [⟨.lane 0, false, 0, 4, []⟩]).chans[(0 : Chan)].resetAwaited = false
      ∧ (queued [⟨.fg 2, false, 0, 1, []⟩] [⟨.lane 0, false, 0, 4, []⟩]).chans[(0 : Chan)].issued.length < 4
      ∧ (queued [⟨.fg 2, false, 0, 1, []⟩] []).chans[(0 : Chan)].fgPending = [⟨.fg 2, false, 0, 1, []⟩]
      ∧ (queued [] [⟨.lane 0, false, 0, 4, []⟩]).chans[(0 : Chan)].fgPending = []
      ∧ (queued [] [⟨.lane 0, false, 0, 4, []⟩]).chans[(0 : Chan)].rebuildPending = [⟨.lane 0, false, 0, 4, []⟩] := by
  decide +kernel

/-- The ending the checkpoint writer takes next. -/
def writerEnding (write : Bool) (s : State) : Option EndStatus := (takeEnding .checkpoint write none s).map (·.1.status)

/-- The ending of a checkpoint write in a state. -/
def written (m : Mark) (n : Nat) (e : EndStatus) (s : State) : State := ending 3 .checkpoint true e (writingRecord m n s)

/-- A declaration on its way. -/
def telling (c : Chan) (r : Role) (s : State) : State := { s with mail := { s.mail with told := [⟨c, r⟩] } }

theorem witness_FailedChannelsChangeTheSession :
    (telling 2 (.survivor 2) (inSession .draining)).mail.told = ⟨2, .survivor 2⟩ :: [] ∧ (inSession .draining).session.state = .draining
      ∧ (inSession .complete).session.state = .complete ∧ Role.survivor 1 ≠ .unused
      ∧ (telling 2 (.survivor 2) (inLong .starting .start)).session.longOp = some ⟨.start, 9⟩
      ∧ (telling 3 .target (inSession (.running false))).mail.told = ⟨3, .target⟩ :: []
      ∧ silenced defaultPolicy .sessionState = false
      ∧ (telling 2 (.survivor 2) (writingRecord .running 4 (inSession (.running false)))).writer.state = .writing ⟨.running, 4, .a⟩
      ∧ (inSession (.running false)).chans[spareChan group].failed = false
      ∧ (telling 2 (.survivor 2) (inSession (.running false))).writer.state = .idle
      ∧ (telling 2 (.survivor 2) (inSession (.running false))).writer.next = .seq 1
      ∧ LanesWaitAsTheySay (telling 2 (.survivor 2) (working .reading (.running false)))
      ∧ writerEnding true (telling 3 .target (written .running 4 .memberFailed (inSession (.running false)))) = some .memberFailed
      ∧ writerEnding true (telling 3 .target (written .running 4 (.good []) (inSession (.running false)))) = some (.good [])
      ∧ writerEnding true (telling 3 .target (writingRecord .running 4 (inSession (.running false)))) = none := by
  simp only [LanesWaitAsTheySay]
  decide +kernel

/-! ## The statements' hypotheses are met: the rebuild -/

/-- A lane's claim on its way. -/
def claiming (l : Lane) (s : State) : State := { s with mail := { s.mail with claims := [l] } }

theorem witness_ClaimsTakeTheFirstCandidate :
    (inSession (.running false)).plan.array = some group ∧ (3 : Lane) ∈ (claiming 3 (inSession (.running false))).mail.claims
      ∧ (inSession (.running false)).table.extents[0]? = some ⟨.pending, .normal⟩ ∧ ExtClass.normal ≠ .hold
      ∧ (ExtentRec.mk .pending .last).isCandidate = true ∧ classOrder .normal < classOrder .last
      ∧ (∀ q ∈ [ExtentRec.mk .done .first, ExtentRec.mk .pending .hold], q.isCandidate = false)
      ∧ (inSession .paused).session.state = .paused := by
  decide +kernel

/-- The answer a lane's claim was given is on its way. -/
def answering (given : Option (Nat × Nat × Nat)) (s : State) : State := { s with mail := { s.mail with answers := [⟨0, given⟩] } }

/-- Lane 0 claims and holds nothing. -/
def empty (s : State) : State := onLane 0 (fun r => { r with extent := none, stripe := none }) { s with locks := [] }

/-- Held work alone is left: a claim that finds no candidate, an extent DONE and a release set the flag, and HOLD-WAITING tells how many
extents are held (R63, R66, R67, R71). -/
theorem witness_ClaimsTakeTheFirstCandidate_hold :
    shows (fun t => (t.table.holdWaiting, told t)) (.claim 0)
        { onHold (inSession (.running false)) with mail := { Mail.empty with claims := [0] } } = some (true, [.held 2])
      ∧ shows (fun t => (t.table.holdWaiting, told t)) (.claim 0)
          { onHold (inSession .draining) with mail := { Mail.empty with claims := [0] } } = some (false, [])
      ∧ (∀ q ∈ (onHold (inSession (.running false))).table.extents, q.isCandidate = false) := by
  decide +kernel

theorem witness_ClaimAnswersStartStripes :
    (answering none (inSession .paused)).lanes[(0 : Lane)].state ≠ .claiming
      ∧ (answering none (empty (working .claiming (.running false)))).lanes[(0 : Lane)].state = .claiming
      ∧ (answering none (empty (working .claiming (.running false)))).lanes[(0 : Lane)].extent = none
      ∧ State.reset.governor.effective ≤ State.reset.governor.target
      ∧ (empty (working .claiming (.running false))).table.extents[0]? = some ⟨.active 3 0, .normal⟩
      ∧ 3 ∉ (empty (working .claiming (.running false))).table.ahead
      ∧ lockEntry? (empty (working .claiming (.running false))).locks 3 = none
      ∧ (empty (working .claiming (.running false))).pool.laneWait = []
      ∧ group.members - 1 ≤ (empty (working .claiming (.running false))).pool.free.length
      ∧ lockEntry? [⟨3, [⟨.fg 2, .exclusive⟩], []⟩] 3 = some ⟨3, [⟨.fg 2, .exclusive⟩], []⟩
      ∧ LockMode.exclusive ≠ .shared
      ∧ (lockEntry? [⟨3, [⟨.fg 2, .shared⟩], []⟩] 3 = some ⟨3, [⟨.fg 2, .shared⟩], []⟩ ∧ ∀ h ∈ [LockPair.mk (.fg 2) .shared], h.mode = .shared)
      ∧ (3 ∈ [2, 3] ∧ 3 + 1 ∉ [2, 3] ∧ 3 + 1 < extentLength group 0)
      ∧ workingUpTo (empty (working .claiming (.running false))).lanes 0 ≤ State.reset.governor.target := by
  decide +kernel

/-- Lane 0 claims, and is given extent 0 at a cursor; the ahead set holds some stripes. -/
def given (cursor : Nat) (ahead : List Nat) (s : State) : State :=
  answering (some (0, cursor, 256)) (empty { s with
    table := { s.table with extents := [⟨.active cursor 0, .normal⟩, ⟨.pending, .last⟩], ahead } })

theorem witness_ClaimAnswersStartStripes_passes :
    (∀ i, i < 2 → 3 + i ∈ (given 3 [3, 4, 6] (working .claiming (.running false))).table.ahead)
      ∧ shows (fun t => (t.lanes[0].state, t.lanes[0].stripe, t.table.ahead)) (.claimAnswer 0)
          (given 3 [3, 4, 6] (working .claiming (.running false))) = some (.bufferWait, some 5, [6])
      ∧ 254 + 2 = extentLength group 0
      ∧ shows (fun t => (t.lanes[0].state, t.table.extents[0]?, t.table.ahead, t.mail.triggers)) (.claimAnswer 0)
          (given 254 [254, 255] (working .claiming (.running false))) = some (.claiming, some ⟨.done, .normal⟩, [], 1)
      ∧ shows (fun t => (t.lanes[0].state, t.table.extents[0]?, t.table.ahead)) (.claimAnswer 0)
          (given 3 [3, 4] (working .claiming (.pausing .request))) = some (.parked, some ⟨.partDone 4, .normal⟩, [4])
      ∧ shows (fun t => (t.table.extents[0]?, t.writer.state, t.writer.waiting)) (.claimAnswer 0)
          (given 255 [255] (working .claiming (.pausing .request)))
        = some (some ⟨.done, .normal⟩, .writing ⟨.running, 1, .a⟩, some .paused) := by
  decide +kernel

theorem witness_ClaimAnswersStartStripes_complete :
    (∀ r ∈ (allRebuilt (answering none (empty (working .claiming (.running false))))).table.extents, r.state = .done)
      ∧ shows (fun t => (t.session.state, t.writer.state)) (.claimAnswer 0)
          (allRebuilt (answering none (empty (working .claiming (.running false))))) = some (.running true, .writing ⟨.complete, 1, .a⟩)
      ∧ shows (fun t => t.session.state) (.claimAnswer 0) (answering none (empty (working .claiming (.running false))))
        = some (.running false) := by
  decide +kernel

theorem witness_LockGrantsAskForBuffers :
    (OpName.lane 0 ∈ [OpName.lane 0] ∧ (working .lockWait (.running false)).lanes[(0 : Lane)].state = .lockWait)
      ∧ (working .lockWait (.running false)).plan.array = some group
      ∧ (working .lockWait (.running false)).pool.fgWait = [] ∧ (working .lockWait (.running false)).pool.laneWait = []
      ∧ group.members - 1 ≤ (working .lockWait (.running false)).pool.free.length ∧ [(0 : Nat)].length < group.members - 1
      ∧ fgEntry 5 (withEntry { readEntry with stage := .lockWait }) = some { readEntry with stage := .lockWait }
      ∧ group.members ≤ (withEntry readEntry).pool.free.length ∧ [(0 : Nat), 1].length < group.members := by
  decide +kernel

/-- A run of four blocks that lies on slot 1 of stripe 0, the failed slot. -/
def bufferEntry (write full : Bool) : FgEntry :=
  { readEntry with write, lba := if full then 0 else 4, count := if full then 8 else 4, fullStripe := full, stage := .bufferWait
                   blocks := List.replicate 8 0, bufs := [] }

theorem witness_ReservationsBeginTheWork :
    arrayField group = none ∧ commitCheck group = none ∧ (working .bufferWait (.running false)).plan.array = some group
      ∧ (working .bufferWait (.running false)).lanes[(0 : Lane)].state = .bufferWait
      ∧ (working .bufferWait (.running false)).lanes[(0 : Lane)].stripe = some 3
      ∧ (working .bufferWait (.running false)).chans[mappedChan group 0].failed = false
      ∧ (working .bufferWait (.running false)).chans[mappedChan group 2].failed = false
      ∧ fgEntry 5 (withEntry (bufferEntry false false)) = some (bufferEntry false false)
      ∧ (∀ q ∈ runPlaces group 4 4, lostAtPlanning group (judgePhase group 0 (withEntry (bufferEntry false false))) q.2.1 q.2.2 = false)
      ∧ (∃ q ∈ runPlaces group 4 4, lostAtPlanning group
          (judgePhase group 0 (onChan 2 (fun r => { r with failed := true }) (withEntry (bufferEntry false false)))) q.2.1 q.2.2 = true)
      ∧ (judgePhase group 0 (onChan 2 (fun r => { r with failed := true }) (withEntry (bufferEntry true false)))).missing = [1, 2]
      ∧ isHalted (.halted .secondMember) = true ∧ isHalted (withEntry (bufferEntry true true)).session.state = false
      ∧ (judgePhase group 0 (withEntry (bufferEntry true true))).missing = [1]
      ∧ (bufferEntry true true).fullStripe = true ∧ (bufferEntry true false).fullStripe = false ∧ (∃ r ∈ fiveLosses, r.stripe = 0)
      ∧ (∀ r ∈ (withEntry (bufferEntry true false)).losses, r.stripe ≠ 0)
      ∧ (RunFits group (bufferEntry true true) ∧ (bufferEntry true true).blocks.length = (bufferEntry true true).count
        ∧ (bufferEntry true true).count = stripeData group) := by
  simp only [RunFits]
  decide +kernel

/-- The ending lane 0 takes next. -/
def laneEnding (write : Bool) (c : Option Chan) (s : State) : Option EndStatus := (takeEnding (.lane 0) write c s).map (·.1.status)

theorem witness_LaneReadEndings :
    (working .reading (.running false)).lanes[(0 : Lane)].state = .reading
      ∧ (working .reading (.running false)).lanes[(0 : Lane)].stripe = some 3
      ∧ awaitsPark (working .reading (.running false)).lanes[(0 : Lane)] = false
      ∧ laneEnding false (some 0) (ending 0 (.lane 0) false (.good [1, 2, 3, 4]) (working .reading (.running false))) = some (.good [1, 2, 3, 4])
      ∧ (∀ q ∈ (setRead 0 (fun q => { q with outcome := .good }) (working .reading (.running false)).lanes[(0 : Lane)]).reads, q.outcome = .good)
      ∧ (∃ q ∈ (setRead 2 (fun q => { q with outcome := .good }) (working .reading (.running false)).lanes[(0 : Lane)]).reads,
          q.outcome = .outstanding)
      ∧ (working .reading (.running false)).chans[spareChan group].failed = false
      ∧ laneEnding false (some 0) (ending 0 (.lane 0) false (.medium 3 1 [1, 2, 3]) (working .reading (.running false)))
        = some (.medium 3 1 [1, 2, 3])
      ∧ attemptsOn (working .reading (.running false)).lanes[(0 : Lane)] 0 ≤ defaultPolicy.retryLimit
      ∧ defaultPolicy.retryLimit < attemptsOn { LaneRec.parked with reads := [⟨0, 3, .outstanding⟩] } 0
      ∧ laneEnding false (some 0) (ending 0 (.lane 0) false .memberFailed (working .reading (.running false))) = some .memberFailed
      ∧ (onChan 0 (fun r => { r with failed := true }) (working .reading (.running false))).chans[(0 : Chan)].failed = true := by
  decide +kernel

/-- Lane 0 reads, its read on channel 2 lost with a range, its read on channel 0 at its last attempt. -/
def lastLaneRead : State :=
  onLane 0 (fun r => { r with reads := [⟨0, 3, .outstanding⟩, ⟨2, 3, .lost⟩], lost := [⟨2, 1, 1, .medium⟩] }) (working .reading (.running false))

theorem witness_LaneReadEndings_afterALoss :
    awaitsPark lastLaneRead.lanes[(0 : Lane)] = false
      ∧ (∀ q ∈ (setRead 0 (fun q => { q with outcome := .good }) lastLaneRead.lanes[(0 : Lane)]).reads, q.outcome ≠ .outstanding)
      ∧ shows (fun t => (t.lanes[0].state, t.lanes[0].accum)) (.laneReadCompletion 0 0)
          (ending 0 (.lane 0) false (.good [1, 2, 3, 4]) lastLaneRead) = some (.writing, [5 ^^^ 1, fillBlock group.fill, 5 ^^^ 3, 5 ^^^ 4])
      ∧ defaultPolicy.retryLimit < attemptsOn lastLaneRead.lanes[(0 : Lane)] 0
      ∧ shows (fun t => (t.lanes[0].state, t.lanes[0].accum)) (.laneReadCompletion 0 0)
          (ending 0 (.lane 0) false (.medium 2 1 [1, 2, 4]) lastLaneRead)
        = some (.writing, [5 ^^^ 1, fillBlock group.fill, fillBlock group.fill, 5 ^^^ 4])
      ∧ (onChan 3 (fun r => { r with failed := true }) lastLaneRead).chans[spareChan group].failed = true := by
  decide +kernel

/-- Lane 0 works, with the target level lowered to zero and the lowering pending. -/
def lowered (st : LaneState) : State :=
  { working st (.running false) with governor := { State.reset.governor with commanded := 0, target := 0, effective := 2 } }

theorem witness_LaneWriteEndings :
    (working .writing (.pausing .request)).lanes[(0 : Lane)].state = .writing
      ∧ (working .writing (.pausing .request)).lanes[(0 : Lane)].extent = some 0
      ∧ (working .writing (.pausing .request)).table.extents[0]? = some ⟨.active 3 0, .normal⟩
      ∧ laneEnding true none (ending 3 (.lane 0) true (.good []) (working .writing (.pausing .request))) = some (.good [])
      ∧ laneEnding true none (ending 3 (.lane 0) true .timeout (working .writing (.pausing .request))) = some .timeout
      ∧ isGood (.good []) = true ∧ isGood .timeout = false ∧ (working .writing (.pausing .request)).lanes[(0 : Lane)].lost = []
      ∧ 3 + 1 < extentLength group 0 ∧ 43 + 1 = extentLength group 1
      ∧ workingUpTo (working .writing (.running false)).lanes 0 ≤ (working .writing (.running false)).governor.target
      ∧ silenced defaultPolicy .extentDone = false
      ∧ (∀ k : Lane, k ≠ 0 → (working .writing (.pausing .request)).lanes[k].state = .parked)
      ∧ (working .writing (.pausing .request)).writer.waiting = none ∧ (working .writing (.pausing .request)).mail.triggers = 0
      ∧ (onLane 1 (fun r => { r with state := .reading }) (working .writing (.pausing .request))).lanes[(1 : Lane)].state ≠ .parked
      ∧ ([⟨0, 1, 2, .medium⟩].foldl (recordLostRange group 3)
          { working .writing (.running false) with plan := { linked.plan with policy := { defaultPolicy with lossLimit := 1 } } }).session.state
        = .pausing .loss
      ∧ shows (fun t => t.lanes[0].state) (.laneWriteCompletion 0) (ending 3 (.lane 0) true (.good []) (lowered .writing)) = some .parked
      ∧ (lowered .writing).governor.target < workingUpTo (lowered .writing).lanes 0 ∧ 3 + 1 ∉ (working .writing (.running false)).table.ahead := by
  decide +kernel

theorem witness_LaneWriteEndings_lowered : RateLaw (lowered .writing) := by simp only [RateLaw]; decide +kernel

theorem witness_ClaimAnswersStartStripes_lowered :
    (answering none (empty (lowered .claiming))).governor.target < (answering none (empty (lowered .claiming))).governor.effective
      ∧ shows (fun t => (t.lanes[0].state, t.governor.effective)) (.claimAnswer 0) (answering none (empty (lowered .claiming)))
        = some (.parked, 0)
      ∧ (given 255 [255] (lowered .claiming)).governor.target < workingUpTo (given 255 [255] (lowered .claiming)).lanes 0
      ∧ shows (fun t => (t.lanes[0].state, t.table.extents[0]?)) (.claimAnswer 0) (given 255 [255] (lowered .claiming))
        = some (.parked, some ⟨.done, .normal⟩) := by
  decide +kernel

theorem witness_ClaimAnswersStartStripes_rate :
    RateLaw (answering none (empty (lowered .claiming))) ∧ RateLaw (given 255 [255] (lowered .claiming)) := by
  simp only [RateLaw]; decide +kernel

theorem witness_ClaimAnswersStartStripes_hold :
    shows (fun t => (t.table.holdWaiting, told t)) (.claimAnswer 0) (onHold (given 255 [255] (working .claiming (.running false))))
        = some (true, [.extent 0, .held 1])
      ∧ shows (fun t => (t.table.holdWaiting, told t)) (.claimAnswer 0) (onHold (given 3 [3] (working .claiming (.pausing .request))))
        = some (true, [.held 2]) := by
  decide +kernel

/-- Lane 0 is at a cursor of extent 0, its spare write ended GOOD; the ahead set holds some stripes. -/
def finished (cursor : Nat) (ahead : List Nat) (s : State) : State :=
  ending 3 (.lane 0) true (.good []) { s with
    table := { s.table with extents := [⟨.active cursor 0, .normal⟩, ⟨.pending, .last⟩], ahead } }

theorem witness_LaneWriteEndings_passes :
    (∀ i, i < 2 → 3 + 1 + i ∈ (finished 3 [3, 4, 5, 7] (working .writing (.running false))).table.ahead)
      ∧ shows (fun t => (t.lanes[0].state, t.lanes[0].stripe, t.table.ahead)) (.laneWriteCompletion 0)
          (finished 3 [3, 4, 5, 7] (working .writing (.running false))) = some (.bufferWait, some 6, [7])
      ∧ 253 + 1 + 2 = extentLength group 0
      ∧ shows (fun t => (t.lanes[0].state, t.table.extents[0]?, t.table.ahead)) (.laneWriteCompletion 0)
          (finished 253 [254, 255] (working .writing (.running false))) = some (.claiming, some ⟨.done, .normal⟩, [])
      ∧ (finished 255 [] (lowered .writing)).governor.target < workingUpTo (finished 255 [] (lowered .writing)).lanes 0
      ∧ shows (fun t => (t.lanes[0].state, t.table.extents[0]?, t.mail.triggers, t.governor.effective)) (.laneWriteCompletion 0)
          (finished 255 [] (lowered .writing)) = some (.parked, some ⟨.done, .normal⟩, 1, 0) := by
  decide +kernel

theorem witness_LaneWriteEndings_hold :
    shows (fun t => (t.table.holdWaiting, told t)) (.laneWriteCompletion 0) (onHold (finished 255 [] (working .writing (.running false))))
        = some (true, [.extent 0, .held 1])
      ∧ shows (fun t => (t.table.holdWaiting, told t)) (.laneWriteCompletion 0) (onHold (finished 3 [] (working .writing (.pausing .request))))
        = some (true, [.held 2]) := by
  decide +kernel

theorem witness_LaneWriteEndings_complete :
    shows (fun t => (t.session.state, t.writer.state, t.table.extents)) (.laneWriteCompletion 0)
        { finished 255 [] (lowered .writing) with
          table := { (finished 255 [] (lowered .writing)).table with extents := [⟨.active 255 0, .normal⟩, ⟨.done, .last⟩] } }
      = some (.running true, .writing ⟨.complete, 1, .a⟩, [⟨.done, .normal⟩, ⟨.done, .last⟩]) := by
  decide +kernel

theorem witness_LaneWriteEndings_finishedAboveT : RateLaw (finished 255 [] (lowered .writing)) := by simp only [RateLaw]; decide +kernel

theorem witness_LostRangesAreRecorded :
    (∀ r ∈ fiveLosses, r.stripe ≠ 5) ∧ fiveLosses.length < 256 ∧ (inSession (.running false)).session.state = .running false
      ∧ (6 ≤ fiveLosses.length + 1 ∧ fiveLosses.length + 1 < 7) ∧ silenced defaultPolicy .lossLimit = false
      ∧ (inSession (.pausing .request)).session.state = .pausing .request ∧ silenced defaultPolicy .stripLost = false
      ∧ 256 ≤ ((List.range 256).map fun n => LossRec.mk n 0 1 0 .medium).length
      ∧ (∀ r ∈ (List.range 256).map fun n => LossRec.mk n 0 1 0 .medium, r.stripe ≠ 256)
      ∧ (∃ r ∈ fiveLosses, r.stripe = 4)
      ∧ laneEnding true none (ending 3 (.lane 0) true (.good []) (working .writing (.running false))) = some (.good [])
      ∧ shows (·.losses) (.laneWriteCompletion 0) (ending 3 (.lane 0) true (.good [])
          (onLane 0 (fun r => { r with lost := [⟨0, 1, 2, .medium⟩, ⟨2, 0, 1, .timeout⟩] }) (working .writing (.running false))))
        = some [⟨3, 0, 3, 0, .medium⟩] := by
  decide +kernel

theorem witness_LostRangesAreRecorded_law : LossLaw fiveLosses := ⟨by decide, by decide⟩

theorem witness_GovernorSignalsAndQuietTimer :
    State.reset.mail.signals = 0 ∧ 0 < { Mail.empty with signals := 1 }.signals ∧ State.reset.governor.quiet = none
      ∧ { State.reset.governor with limit := 3, quiet := some 30000 }.quiet = some 30000 := by
  decide

theorem witness_GovernorSignalsAndQuietTimer_lanes :
    shows (fun t => (t.governor.effective, t.mail.claims, told t)) .quietTimerExpiry
        { inSession (.running false) with governor := { commanded := 2, limit := 1, target := 1, effective := 1, quiet := some 9 } }
      = some (2, [0, 1], [.level 2])
      ∧ shows (fun t => (t.governor.effective, t.mail.claims, told t)) .governSignal
          { inSession (.running false) with
            mail := { Mail.empty with signals := 1 }
            governor := { commanded := 2, limit := 2, target := 2, effective := 2, quiet := some 9 } } = some (1, [0], [.level 1]) := by
  decide +kernel

/-! ## The statements' hypotheses are met: checkpoints and the end of a session -/

theorem witness_TriggersAskForRunningRecords :
    0 < { Mail.empty with triggers := 1 }.triggers ∧ { Writer.reset with period := some 500 }.period ≠ none
      ∧ (∀ closing, (inSession .paused).session.state ≠ .running closing) ∧ (writingRecord .paused 4 linked).writer.state = .writing ⟨.paused, 4, .a⟩
      ∧ Mark.paused ≠ .running ∧ (inSession (.running true)).session.state = .running true
      ∧ (inSession (.running true)).writer.waiting = none
      ∧ (writingRecord .running 4 (inSession (.running true))).writer.state = .writing ⟨.running, 4, .a⟩
      ∧ (inSession (.running true)).writer.state = .idle ∧ (inSession (.running true)).writer.next = .seq 1
      ∧ (inSession (.running true)).chans[spareChan group].failed = false
      ∧ (onChan 3 (fun r => { r with failed := true }) (inSession (.running true))).chans[spareChan group].failed = true := by
  decide +kernel

theorem witness_TriggersAskForRunningRecords_exhausted :
    (triggered (exhausted (inSession (.running false)))).writer.next = .exhausted
      ∧ shows (fun t => (t.writer.state, t.chans[3].failed, t.mail.triggers)) .checkpointTrigger
          (triggered (exhausted (inSession (.running false)))) = some (.idle, true, 0) := by
  decide +kernel

/-- A RUNNING-marked write of sequence 4 ends GOOD, with what waits behind it. -/
def behind (waiting : Option Mark) (again : Bool) : State :=
  written .running 4 (.good []) { inSession (.pausing .request) with writer := { Writer.reset with next := .seq 4, waiting, again } }

theorem witness_CheckpointWriteEndings :
    writerEnding true (written .running 1 (.good []) (inLong .starting .start)) = some (.good [])
      ∧ (written .running 1 (.good []) (inLong .starting .start)).writer.state = .writing ⟨.running, 1, .a⟩
      ∧ (inLong .starting .start).writer.waiting = none ∧ (inLong .starting .start).writer.again = false
      ∧ (inLong .starting .start).session.state = .starting ∧ (inLong .starting .start).chans[spareChan group].failed = false
      ∧ (inLong .starting .start).session = { state := .starting, longOp := some { kind := .start, tag := 9 } }
      ∧ (∃ r ∈ (inLong .starting .start).table.extents, r.state ≠ .done) ∧ pauseMark .loss = .lossStop
      ∧ (inLong (.pausing .loss) .pause).session = { state := .pausing .loss, longOp := some { kind := .pause, tag := 9 } }
      ∧ (inSession (.running true)).session.state = .running true
      ∧ (inLong .draining .abort).session = { state := .draining, longOp := some { kind := .abort, tag := 9 } }
      ∧ writerEnding true (written .running 4 .timeout (inSession (.running false))) = some .timeout ∧ isGood .timeout = false
      ∧ Mark.running ≠ .abandoned
      ∧ (onChan 3 (fun r => { r with failed := true }) linked).chans[spareChan group].failed = true
      ∧ (inSession (.running false)).session.state ≠ .starting ∧ 4 < 4294967295
      ∧ shows (fun t => t.writer.state) .checkpointWriteCompletion (behind (some .paused) false) = some (.writing ⟨.paused, 5, .b⟩)
      ∧ shows (fun t => t.writer.state) .checkpointWriteCompletion (behind none true) = some (.writing ⟨.running, 5, .b⟩)
      ∧ shows (fun t => t.writer.state) .checkpointWriteCompletion (behind none false) = some .idle
      ∧ (inSession (.pausing .loss)).session = { state := .pausing .loss, longOp := none }
      ∧ shows (fun t => t.session.state) .checkpointWriteCompletion (written .lossStop 4 (.good []) (inSession (.pausing .loss)))
        = some .lossStop
      ∧ shows (fun t => t.session.state) .checkpointWriteCompletion (written .abandoned 4 .timeout (inLong .draining .abort))
        = some .idle := by
  decide +kernel

/-- A write of a mark and a sequence ends GOOD in HALTED, with the HALTED record waiting behind it. -/
def haltedBehind (m : Mark) (n : Nat) : State :=
  written m n (.good []) { inSession (.halted .secondMember) with writer := { Writer.reset with next := .seq n, waiting := some .halted } }

theorem witness_CheckpointWriteEndings_wakes :
    shows (fun t => (t.session.state, t.mail.claims)) .checkpointWriteCompletion (written .running 2 (.good []) (inLong .starting .start))
      = some (.running false, [0, 1]) := by
  decide +kernel

theorem witness_CheckpointWriteEndings_halted :
    (∀ m ∈ [Mark.running, .paused, .lossStop, .complete], MovesNoSession ⟨m, 4, .a⟩ (.halted .secondMember)
        ∧ shows (fun t => (t.writer.state, t.session.state)) .checkpointWriteCompletion (haltedBehind m 4)
          = some (.writing ⟨.halted, 5, .b⟩, .halted .secondMember))
      ∧ MovesNoSession ⟨.running, 4, .a⟩ (.pausing .request) ∧ MovesNoSession ⟨.paused, 4, .a⟩ .draining := by
  refine ⟨fun m hm => ⟨by simp [MovesNoSession], ?_⟩, by simp [MovesNoSession], by simp [MovesNoSession]⟩
  fin_cases hm <;> decide +kernel

theorem witness_CheckpointWriteEndings_exhausted :
    shows (fun t => (t.writer.state, t.writer.next, t.chans[3].failed, t.mail.told)) .checkpointWriteCompletion
        (haltedBehind .running 4294967295) = some (.idle, .exhausted, true, [⟨3, .target⟩])
      ∧ shows (fun t => (t.writer.state, t.writer.next, t.chans[3].failed)) .checkpointWriteCompletion
          (written .running 4294967295 (.good [])
            { inSession (.running false) with writer := { Writer.reset with next := .seq 4294967295, again := true } })
        = some (.idle, .exhausted, true) := by
  decide +kernel

theorem witness_CheckpointReadEndings :
    writerEnding false (ending 3 .checkpoint false (.good (slotWith .running 7)) (reading .notRead .a)) = some (.good (slotWith .running 7))
      ∧ (reading .notRead .a).session = { state := .restoring, longOp := some { kind := .restore, tag := 9 } }
      ∧ (reading .notRead .a).writer.state = .reading ⟨.notRead, .notRead, .a, 1⟩ ∧ (reading .notRead .a).chans[spareChan group].failed = false
      ∧ (reading (.read (slotWith .running 7)) .b).writer.state = .reading ⟨.read (slotWith .running 7), .notRead, .b, 1⟩
      ∧ (judgeRecord { group with epoch := 8 } (slotWith .running 7)).valid = false
      ∧ (judgeRecord { group with epoch := 8 } (slotWith .running 7)).checkRight = true
      ∧ (judgeRecord group (List.replicate 6 0)).checkRight = false
      ∧ (judgeRecord group (slotWith .running 7)).valid = true ∧ (judgeRecord group (slotWith .halted 8)).valid = true
      ∧ numAt (slotWith .running 7) 0 4 < numAt (slotWith .halted 8) 0 4 ∧ numAt (slotWith .running 7) 0 4 ≤ numAt (slotWith .running 7) 0 4
      ∧ markOf (numAt (slotWith .halted 8) 4 1) = some .halted ∧ markOf (numAt (slotWith .running 7) 4 1) = some .running
      ∧ writerEnding false (ending 3 .checkpoint false .memberFailed (reading .notRead .a)) = some .memberFailed
      ∧ defaultPolicy.retryLimit < (CkptReads.mk .notRead .notRead .a 3).attempts
      ∧ (CkptReads.mk .notRead .notRead .a 1).attempts ≤ defaultPolicy.retryLimit
      ∧ writerEnding false (ending 3 .checkpoint false .rejected (reading .notRead .a)) = some .rejected
      ∧ shows (fun t => (t.session.state, t.chans[3].role)) .checkpointReadCompletion
          (ending 3 .checkpoint false (.good (slotWith .complete 8)) (reading (.read (slotWith .running 7)) .b))
        = some (.complete, .survivor 1)
      ∧ shows (fun t => t.session.state) .checkpointReadCompletion
          (onChan 3 (fun r => { r with failed := true })
            (ending 3 .checkpoint false (.good (slotWith .complete 8)) (reading (.read (slotWith .running 7)) .b))) = some .idle
      ∧ shows (fun t => t.chans[2].failed) .checkpointReadCompletion
          (onChan 2 (fun r => { r with linkPresent := false })
            (ending 3 .checkpoint false (.good (slotWith .paused 8)) (reading (.read (slotWith .running 7)) .b))) = some true := by
  decide +kernel

theorem witness_CheckpointReadEndings_hold :
    shows (fun t => (t.session.state, t.table.holdWaiting, (told t).contains (.held 2))) .checkpointReadCompletion
      { ending 3 .checkpoint false (.good (slotWith .running 8)) (reading (.read (slotWith .running 7)) .b) with
        plan := { (inSession .paused).plan with windows := (restaged .hold).plan.stagedWindows } } = some (.paused, true, true) := by
  decide +kernel

/-- A table and a loss list fit a record, each at the bounds of its ranges. -/
theorem witness_RecordsAreJudged_captured :
    CaptureFits group [⟨.active 255 0, .normal⟩, ⟨.partDone 43, .last⟩] [⟨298, 0, 4, 0, .medium⟩, ⟨299, 3, 1, 2, .timeout⟩]
      ∧ (judgeRecord group (blocksOfBytes (recordBytes group 4294967295 .abandoned 256
          [⟨.active 255 0, .normal⟩, ⟨.partDone 43, .last⟩] [⟨299, 3, 1, 2, .timeout⟩]) ++ [7])).valid = true := by
  refine ⟨⟨by decide, ?_, by decide, by decide, by decide⟩, by decide +kernel⟩
  rintro (_ | _ | x) r c h hs
  · cases h; rcases hs with h | ⟨l, h⟩ <;> cases h; decide
  · cases h; rcases hs with h | ⟨l, h⟩ <;> cases h; decide
  · simp at h

theorem witness_RecordsAreJudged :
    arrayField group = none ∧ commitCheck group = none ∧ CheckRight (slotWith .running 7) ∧ ¬ CheckRight (List.replicate 6 0) :=
  ⟨by decide +kernel, by decide +kernel, ⟨by decide +kernel, 56, by decide +kernel, by decide, by decide +kernel⟩,
    fun h => absurd h.1 (by decide +kernel)⟩

theorem witness_DrainEndsWhenNoWorkRemains :
    (inSession .paused).session.state ≠ .draining ∧ (withEntry readEntry).queue ≠ [] ∧ orphanCount (issuedOn (.orphan 1) true) ≠ 0
      ∧ (inLong .draining .abort).session = { state := .draining, longOp := some { kind := .abort, tag := 9 } }
      ∧ orphanCount (inLong .draining .abort) = 0 ∧ (inLong .draining .abort).queue = [] ∧ (inLong .draining .abort).plan.array = some group
      ∧ (inLong .draining .abort).writer.state = .idle ∧ (inLong .draining .abort).writer.next = .seq 1
      ∧ (inLong .draining .abort).chans[spareChan group].failed = false
      ∧ (onChan 3 (fun r => { r with failed := true }) (inLong .draining .abort)).chans[spareChan group].failed = true
      ∧ shows (fun t => (t.session.state, t.chans[3].failed)) .drainEnd
          { inLong .draining .abort with writer := { Writer.reset with next := .exhausted } } = some (.draining, true) := by
  decide +kernel

theorem witness_SequencesRiseAndSlotsAlternate :
    WriterLaw State.reset.writer
      ∧ WriterLaw (written .running 4 (.good []) { inSession .paused with writer := { Writer.reset with next := .seq 4 } }).writer
      ∧ SessionLaw (inSession .paused) ∧ (inSession .paused).session.state ≠ .restoring
      ∧ shows (fun t => (t.writer.next, t.writer.slot)) .checkpointWriteCompletion
          (written .running 4294967295 (.good []) (inSession .paused)) = some (.exhausted, .b) :=
  ⟨fun f h => by simp [State.reset, State.afterReset, Writer.reset] at h, fun f h => by cases h; exact ⟨rfl, rfl⟩,
    ⟨by decide +kernel, by decide +kernel, by decide +kernel⟩, by decide +kernel, by decide +kernel⟩

/-! ## The statements' hypotheses are met: geometry and laws -/

theorem witness_StripsAndBlocksAreLocated :
    3 ≤ group.members ∧ 0 < group.members - 1 ∧ 1 < group.members - 1 ∧ 0 < stripBlocks group ∧ 2399 < capacity group
      ∧ 2 ≠ (group.members - 1) - 299 % group.members ∧ stripOn group 299 2 = some 1 := by
  decide

/-- A state with something in every table. -/
def lawful : State :=
  { working .reading (.running false) with
    pending := [.recordSent]
    table := { extents := [{ state := .active 3 0, cls := .normal }, { state := .pending, cls := .last }], ahead := [7, 299], holdWaiting := false }
    losses := fiveLosses
    queue := [readEntry]
    pool := { free := (List.range 384).drop 5, held := [⟨.lane 0, [0, 1]⟩, ⟨.fg 5, [2, 3, 4]⟩], fgWait := [], laneWait := [] }
    writer := { Writer.reset with period := some 120000 }
    link := { State.reset.link with
      notices := [⟨.extentDone, 255, 2, 1, .extent 0⟩, ⟨.memberError, 3, 1, 2, .memberError .medium 1⟩], nextOrder := 3 } }

theorem lawful_active (x : Nat) (l : Lane) : ActiveUnder lawful x l ↔ x = 0 ∧ l = 0 := by
  constructor
  · rintro ⟨r, c, h, hr⟩
    match x, h with
    | 0, h =>
      obtain rfl : ExtentRec.mk (.active 3 0) .normal = r := by simpa [lawful] using h
      simp only [ExtentState.active.injEq] at hr
      exact ⟨rfl, hr.2.symm⟩
    | 1, h =>
      obtain rfl : ExtentRec.mk .pending .last = r := by simpa [lawful] using h
      exact absurd hr (by simp)
    | n + 2, h => simp [lawful] at h
  · rintro ⟨rfl, rfl⟩; exact ⟨_, 3, rfl, rfl⟩

theorem lawful_holds (l : Lane) (x : Nat) : Holds lawful l x ↔ x = 0 ∧ l = 0 := by
  have h1 : ∀ l : Lane, lawful.lanes[l].extent = if l = 0 then some 0 else none := by decide +kernel
  have h2 : lawful.mail.answers = [] := by decide +kernel
  simp only [Holds, h1, h2, List.not_mem_nil, exists_false, and_false, or_false]
  split
  · next h => simp only [Option.some.injEq, h, and_true]; exact eq_comm
  · next h => simp [h]

theorem witness_StepsKeepLaws :
    NoticeLaw lawful.link ∧ AheadLaw lawful.table ∧ LossLaw lawful.losses ∧ PoolLaw lawful.pool ∧ ChannelsLaw lawful.chans
      ∧ LockLaw lawful.locks ∧ QueueLaw lawful.queue ∧ SessionLaw lawful ∧ RateLaw lawful ∧ PlanLaw lawful.plan
      ∧ LanesLaw lawful ∧ HoldLaw lawful ∧ PlaceLaw lawful
      ∧ (after (step lawful)).isSome = true := by
  refine ⟨⟨by decide +kernel, by decide +kernel, by decide +kernel⟩, ⟨by decide +kernel, by decide +kernel⟩,
    ⟨by decide +kernel, by decide +kernel⟩, ?_, ?_, ?_, ⟨by decide +kernel, by decide +kernel⟩,
    ⟨by decide +kernel, by decide +kernel, by decide +kernel⟩, ?_, ?_,
    ⟨by decide +kernel, by decide +kernel, by decide +kernel, by decide +kernel, by decide +kernel⟩, ?_, ?_, by decide +kernel⟩
  · simp only [PoolLaw]; decide +kernel
  · simp only [ChannelsLaw, ChannelLaw]; decide +kernel
  · simp only [LockLaw, EntryLaw]; decide +kernel
  · simp only [RateLaw]; decide +kernel
  · refine ⟨by decide +kernel, ?_, ?_, ?_, by decide +kernel, by decide +kernel⟩
    · intro g h
      obtain rfl : group = g := by simpa [lawful, working, onLane, inSession, giveRoles, linked] using h
      decide
    all_goals simp only [PolicyLaw]; decide +kernel
  · refine ⟨fun _ _ _ => by decide +kernel, fun _ x l => (lawful_active x l).trans (lawful_holds l x).symm, fun _ l x y h k => ?_,
      by decide +kernel, fun _ => by decide +kernel⟩
    rw [((lawful_holds l x).1 h).1, ((lawful_holds l y).1 k).1]
  · refine ⟨fun g n hg hn => ?_, by decide +kernel, fun _ _ => ⟨group, by decide +kernel, by decide +kernel⟩, fun g hg => ?_,
      by decide +kernel, fun w h => ?_, by decide +kernel⟩
    · obtain rfl : group = g := by simpa [lawful, working, onLane, inSession, giveRoles, linked] using hg
      have : n = 7 ∨ n = 299 := by simpa [lawful] using hn
      rcases this with rfl | rfl
      · exact ⟨by decide, ⟨.active 3 0, .normal⟩, 3, rfl, rfl, by decide⟩
      · exact ⟨by decide, ⟨.pending, .last⟩, 0, rfl, rfl, by decide⟩
    · obtain rfl : group = g := by simpa [lawful, working, onLane, inSession, giveRoles, linked] using hg
      decide +kernel
    · simp [lawful, Writer.reset] at h

end Sys2Proof.Tests
end

/-! ## Strips and blocks are located (R4, R5, R7)

In stripe s the slots above the parity slot hold the first data strips, and the count wraps to slot 0 behind slot N−1. `dataSlot_eq_ite`
and `stripOn_of_ne` say this once for each of the two maps, without a remainder; the inverses are read off from them. -/

namespace Sys2Proof.Proofs.StripMap
open Sys2Proof Sys2Proof.Machine

section Slots
variable {g : ArrayGroup} {s d j : Nat}

theorem paritySlot_lt (hN : 0 < g.members) : paritySlot g s < g.members := by
  unfold paritySlot; omega

theorem dataSlot_lt (hN : 0 < g.members) : dataSlot g s d < g.members := Nat.mod_lt _ hN

/-- Data strip d is d + 1 slots above the parity slot, the count wrapping at N. -/
theorem dataSlot_eq_ite (hd : d < g.members - 1) :
    dataSlot g s d = if paritySlot g s + 1 + d < g.members then paritySlot g s + 1 + d else paritySlot g s + 1 + d - g.members := by
  have hp : paritySlot g s < g.members := paritySlot_lt (by omega)
  unfold dataSlot
  split
  · next hlt => exact Nat.mod_eq_of_lt hlt
  · next hge => rw [Nat.mod_eq_sub_mod (by omega), Nat.mod_eq_of_lt (by omega)]

theorem dataSlot_ne_paritySlot (hd : d < g.members - 1) : dataSlot g s d ≠ paritySlot g s := by
  rw [dataSlot_eq_ite hd]
  split <;> omega

theorem stripOn_paritySlot : stripOn g s (paritySlot g s) = none := if_pos rfl

theorem ne_paritySlot_of_stripOn (h : stripOn g s j = some d) : j ≠ paritySlot g s := by
  rintro rfl
  simp [stripOn_paritySlot] at h

/-- A slot below the parity slot holds one of the wrapped strips, a slot above it one of the first strips. -/
theorem stripOn_of_ne (hj : j < g.members) (hne : j ≠ paritySlot g s) :
    stripOn g s j = some (if j < paritySlot g s then j + (g.members - 1 - paritySlot g s) else j - paritySlot g s - 1) := by
  have hp : paritySlot g s < g.members := paritySlot_lt (by omega)
  rw [stripOn, if_neg hne, Option.some_inj]
  split
  · next hlt => exact Nat.mod_eq_of_lt (by omega)
  · next hge => rw [Nat.mod_eq_sub_mod (by omega), Nat.mod_eq_of_lt (by omega)]; omega

theorem stripOn_dataSlot (hd : d < g.members - 1) : stripOn g s (dataSlot g s d) = some d := by
  rw [stripOn_of_ne (dataSlot_lt (by omega)) (dataSlot_ne_paritySlot hd), dataSlot_eq_ite hd, Option.some_inj]
  have hp : paritySlot g s < g.members := paritySlot_lt (by omega)
  split <;> split <;> omega

theorem strip_lt_of_stripOn (hj : j < g.members) (h : stripOn g s j = some d) : d < g.members - 1 := by
  have hp : paritySlot g s < g.members := paritySlot_lt (by omega)
  have hne : j ≠ paritySlot g s := ne_paritySlot_of_stripOn h
  rw [stripOn_of_ne hj hne, Option.some_inj] at h
  split at h <;> omega

theorem dataSlot_of_stripOn (hj : j < g.members) (h : stripOn g s j = some d) : dataSlot g s d = j := by
  have hp : paritySlot g s < g.members := paritySlot_lt (by omega)
  have hne : j ≠ paritySlot g s := ne_paritySlot_of_stripOn h
  rw [dataSlot_eq_ite (strip_lt_of_stripOn hj h)]
  rw [stripOn_of_ne hj hne, Option.some_inj] at h
  split at h <;> split <;> omega

/-- R5's formula (j − p(s) − 1) mod N, in which the difference may be negative: the model adds N first. -/
theorem strip_eq_emod_of_stripOn (hj : j < g.members) (h : stripOn g s j = some d) :
    (d : Int) = ((j : Int) - (paritySlot g s : Int) - 1) % (g.members : Int) := by
  have hp : paritySlot g s < g.members := paritySlot_lt (by omega)
  have hd : (j + (g.members - 1 - paritySlot g s)) % g.members = d := by
    rwa [stripOn, if_neg (ne_paritySlot_of_stripOn h), Option.some_inj] at h
  have hsum : ((j + (g.members - 1 - paritySlot g s) : Nat) : Int) = (j : Int) - paritySlot g s - 1 + g.members := by omega
  rw [← hd, Int.natCast_mod, hsum, Int.add_emod_right]

theorem exists_stripOn (hj : j < g.members) (hne : j ≠ paritySlot g s) :
    ∃ d, stripOn g s j = some d ∧ d < g.members - 1
      ∧ (d : Int) = ((j : Int) - (paritySlot g s : Int) - 1) % (g.members : Int) ∧ dataSlot g s d = j := by
  have h := stripOn_of_ne hj hne
  exact ⟨_, h, strip_lt_of_stripOn hj h, strip_eq_emod_of_stripOn hj h, dataSlot_of_stripOn hj h⟩

end Slots

section Blocks
variable {g : ArrayGroup} {a s j k d : Nat}

theorem logicalBlock_of_stripOn (h : stripOn g s j = some d) :
    logicalBlock g s j k = some (s * stripeData g + d * stripBlocks g + k) := by
  rw [logicalBlock, h, Option.map_some]

theorem logicalBlock_paritySlot : logicalBlock g s (paritySlot g s) k = none := by
  rw [logicalBlock, stripOn_paritySlot, Option.map_none]

theorem stripe_locate_lt (ha : a < capacity g) : (locate g a).stripe < g.stripes :=
  Nat.div_lt_of_lt_mul (by rwa [Nat.mul_comm])

theorem strip_locate_lt (hN : 3 ≤ g.members) (hB : 0 < stripBlocks g) : (locate g a).strip < g.members - 1 := by
  have hD : 0 < stripeData g := Nat.mul_pos (by omega) hB
  have ho : a % stripeData g < stripBlocks g * (g.members - 1) := by
    rw [Nat.mul_comm]; exact Nat.mod_lt a hD
  exact Nat.div_lt_of_lt_mul ho

theorem block_locate_lt (hB : 0 < stripBlocks g) : (locate g a).block < stripBlocks g := Nat.mod_lt _ hB

theorem member_locate_lt (hB : 0 < stripBlocks g) (ha : a < capacity g) : (locate g a).member < g.stripes * stripBlocks g :=
  calc (locate g a).stripe * stripBlocks g + (locate g a).block
    _ < (locate g a).stripe * stripBlocks g + stripBlocks g := Nat.add_lt_add_left (block_locate_lt hB) _
    _ = ((locate g a).stripe + 1) * stripBlocks g := (Nat.succ_mul ..).symm
    _ ≤ g.stripes * stripBlocks g := Nat.mul_le_mul_right _ (stripe_locate_lt ha)

/-- A block address is the sum of its quotients times their divisors and its last remainder. -/
theorem locate_sum : (locate g a).stripe * stripeData g + (locate g a).strip * stripBlocks g + (locate g a).block = a :=
  calc a / stripeData g * stripeData g + a % stripeData g / stripBlocks g * stripBlocks g + a % stripeData g % stripBlocks g
    _ = a / stripeData g * stripeData g + a % stripeData g := by rw [Nat.add_assoc, Nat.div_add_mod']
    _ = a := Nat.div_add_mod' ..

theorem logicalBlock_locate (hN : 3 ≤ g.members) (hB : 0 < stripBlocks g) :
    logicalBlock g (locate g a).stripe (locate g a).slot (locate g a).block = some a := by
  have hstrip : stripOn g (locate g a).stripe (locate g a).slot = some (locate g a).strip :=
    stripOn_dataSlot (strip_locate_lt hN hB)
  rw [logicalBlock_of_stripOn hstrip, locate_sum]

end Blocks

/-- Settles O51: the slots from the strip map without remainders, the blocks from division with remainder by D and by B. -/
theorem stripsAndBlocksAreLocated : Obligations.StripsAndBlocksAreLocated := by
  unfold Obligations.StripsAndBlocksAreLocated
  constructor
  · intro g s hN
    exact ⟨fun d hd => ⟨rfl, dataSlot_lt (by omega), stripOn_dataSlot hd⟩, stripOn_paritySlot, fun j hj hne => exists_stripOn hj hne⟩
  · intro g a hN hB ha
    exact ⟨rfl, rfl, rfl, rfl, rfl, member_locate_lt hB ha, logicalBlock_locate hN hB, fun s k => logicalBlock_paritySlot,
      fun s j k d h => logicalBlock_of_stripOn h⟩

end Sys2Proof.Proofs.StripMap

/-! ## Staged fields are written, or the first one out of range is named (R17, R19)

A staging request's range checks stand in the order of the fields' numbers, and check n fails exactly when field n is out of range. So the
first check that fails names the first field out of range (`namesFirst_firstFailing`), and the reply to the request follows from that. -/

namespace Sys2Proof.Proofs.Staging
open Sys2Proof Sys2Proof.Machine

section Checks
variable {out : Nat → Prop} {field : Option Nat} {checks : List (Nat × Bool)} {n : Nat}

/-- A field check's answer is the first number that a property holds of, if there is one. -/
def NamesFirst (out : Nat → Prop) : Option Nat → Prop
  | some n => FirstOut out n
  | none => ∀ n, ¬ out n

theorem NamesFirst.eq_some (h : NamesFirst out field) (hn : FirstOut out n) : field = some n := by
  cases field with
  | none => exact absurd hn.1 (h n)
  | some m =>
    have hmn : ¬ m < n := fun hlt => hn.2 m hlt h.1
    have hnm : ¬ n < m := fun hlt => h.2 n hlt hn.1
    exact congrArg some (by omega)

theorem NamesFirst.eq_none (h : NamesFirst out field) (hout : ∀ n, ¬ out n) : field = none := by
  cases field with
  | none => rfl
  | some m => exact absurd h.1 (hout m)

/-- Checks in ascending order of their numbers, those that fail carrying the numbers that a property holds of, name the first of these. -/
theorem namesFirst_firstFailing (ascending : checks.Pairwise (·.1 < ·.1)) (fails : ∀ n, out n ↔ (n, false) ∈ checks) :
    NamesFirst out (firstFailing checks) := by
  cases hfind : checks.find? (fun c => !c.2) with
  | none =>
    rw [firstFailing, hfind]
    intro n hn
    exact absurd (List.find?_eq_none.1 hfind _ ((fails n).1 hn)) (by simp)
  | some c =>
    obtain ⟨hc, before, behind, rfl, hbefore⟩ := List.find?_eq_some_iff_append.1 hfind
    obtain ⟨n, b⟩ := c
    obtain rfl : b = false := by simpa using hc
    rw [firstFailing, hfind]
    refine ⟨(fails n).2 (by simp), fun m hmn hm => ?_⟩
    rw [List.pairwise_append, List.pairwise_cons] at ascending
    obtain ⟨-, ⟨hbehind, -⟩, -⟩ := ascending
    have hmem : (m, false) ∈ before ∨ m = n ∨ (m, false) ∈ behind := by simpa using (fails m).1 hm
    rcases hmem with hm | rfl | hm
    · simpa using hbefore _ hm
    · exact Nat.lt_irrefl m hmn
    · exact Nat.lt_asymm hmn (hbehind _ hm)

/-- The checks of STAGE-ARRAY name the first field out of range; a slot map is out of range by its length or by an entry (R17). -/
theorem arrayField_namesFirst (g : ArrayGroup) : NamesFirst (ArrayOut g) (arrayField g) := by
  refine namesFirst_firstFailing (by simp) fun n => ?_
  match n with
  | 6 => simp [ArrayOut, Nat.succ_le_iff, Decidable.imp_iff_not_or]
  | 0 | 1 | 2 | 3 | 4 | 5 | 7 | 8 | _ + 9 => simp [ArrayOut, within, knownStrip]

/-- The checks of STAGE-WINDOW name the index or the first field out of range; a class is out of range if it is not coded or NORMAL (R19). -/
theorem windowField_namesFirst (f : WindowFields) : NamesFirst (WindowOut f) (windowField f) := by
  refine namesFirst_firstFailing (by simp) fun n => ?_
  match n with
  | 5 => cases hc : f.cls <;> simp [WindowOut, hc]
  | 0 | 1 | 2 | 3 | 4 | _ + 6 => simp [WindowOut, within]

end Checks

section Requests
variable {tag : Tag} {type : Byte} {c : Instr} {r : Request} {s : State} {n : Nat}

/-- A command whose record passes dispatch's checks is carried out by the block that owns the request (R176). -/
theorem exec_of_passes (h : Passes tag s) (hc : c.record = some (tag, r)) (known : ∀ t, r ≠ .unknown t) (notReset : r ≠ .reset)
    (hp : parses r = true) : exec c s = .next (handToOwner tag r (backToHunt s)) := by
  rw [exec_record hc, h.receive known notReset, if_pos hp]

theorem exec_stageArray (h : Passes tag s) (g : ArrayGroup) :
    exec (.stageArray tag (some g)) s = .next (takeStageArray tag g (backToHunt s)) :=
  exec_of_passes (r := .stageArray (some g)) h rfl (fun _ => nofun) nofun rfl

theorem exec_stageWindow (h : Passes tag s) (f : WindowFields) :
    exec (.stageWindow tag (some f)) s = .next (takeStageWindow tag f (backToHunt s)) :=
  exec_of_passes (r := .stageWindow (some f)) h rfl (fun _ => nofun) nofun rfl

/-- A request whose first field out of range is n is refused RANGE with n, and what it would carry out is left undone (R16). -/
theorem checked_some (carry : State → State) :
    checked tag type (some n) carry s = handReply (refusal tag type (.range n)) s := rfl

/-- A request with no field out of range is carried out and answered DONE (R16). -/
theorem checked_none (carry : State → State) :
    checked tag type none carry s = handReply (done tag type .none) (carry s) := rfl

end Requests

section Windows
variable {w : Window} {i : Fin 8}

theorem windowOf_fields : windowOf (Window.fields w i) = w := by
  simp [windowOf, Window.fields]

theorem not_windowOut_fields (hw : w.cls ≠ .normal) (n : Nat) : ¬ WindowOut (Window.fields w i) n := by
  match n with
  | 1 => exact Nat.not_lt.2 (Nat.le_of_lt_succ i.isLt)
  | 3 => exact Nat.not_lt.2 (Nat.le_of_lt_succ w.base.isLt)
  | 4 => exact Nat.not_lt.2 (Nat.le_of_lt_succ w.mask.isLt)
  | 0 | 2 | 5 | _ + 6 => simp [WindowOut, Window.fields, hw]

/-- A number that names an entry of a fixed-size list: that entry is replaced. -/
theorem putAt_fin {α : Type} {k : Nat} (v : Vector α k) (j : Fin k) (a : α) : putAt v j a = v.set j a := by
  simp [putAt, ← Vector.toArray_inj, Array.setIfInBounds]

end Windows

/-- Settles O6: the two checks name the first field out of range, and a window's own fields make that window. -/
theorem stageArrayAndWindowWriteOrName : Obligations.StageArrayAndWindowWriteOrName := by
  unfold Obligations.StageArrayAndWindowWriteOrName
  constructor
  · intro tag g s h
    rw [exec_stageArray h, takeStageArray]
    constructor
    · intro n hn
      rw [(arrayField_namesFirst g).eq_some hn, checked_some]
    · intro hout
      rw [(arrayField_namesFirst g).eq_none hout, checked_none]
      rfl
  · intro tag s h
    constructor
    · intro f n hn
      rw [exec_stageWindow h, takeStageWindow, (windowField_namesFirst f).eq_some hn, checked_some]
    · intro w i hw
      rw [exec_stageWindow h, takeStageWindow, (windowField_namesFirst _).eq_none (not_windowOut_fields hw), checked_none,
        windowOf_fields, ← putAt_fin]
      rfl

end Sys2Proof.Proofs.Staging

/-! ## The queries of the rate, the session and the channels (R54, R95, R147)

A query that passes dispatch is answered with its report of the state as it was when the query arrived: `backToHunt` changes nothing that
these reports read. So each row of a report is that of one entry of a fixed-size list, and the counts are those of the extent table. -/

namespace Sys2Proof.Proofs.Queries
open Sys2Proof Sys2Proof.Machine
open Sys2Proof.Proofs.Staging (exec_of_passes)

section Answers
variable {tag : Tag} {s : State}

theorem exec_queryRate (h : Passes tag s) :
    exec (.queryRate tag (some ())) s = .next (handReply (done tag 0x07 (rateReport s)) (backToHunt s)) :=
  exec_of_passes (r := .queryRate (some ())) h rfl (fun _ => nofun) nofun rfl

theorem exec_querySession (h : Passes tag s) :
    exec (.querySession tag (some ())) s = .next (handReply (done tag 0x07 (sessionReport s)) (backToHunt s)) :=
  exec_of_passes (r := .querySession (some ())) h rfl (fun _ => nofun) nofun rfl

theorem exec_queryChannels (h : Passes tag s) :
    exec (.queryChannels tag (some ())) s = .next (handReply (done tag 0x07 (channelsReport s)) (backToHunt s)) :=
  exec_of_passes (r := .queryChannels (some ())) h rfl (fun _ => nofun) nofun rfl

end Answers

section Reports

/-- The rows made of a fixed-size list's entries: one for each entry, in its place. -/
theorem getElem?_map_toList {α β : Type} {n : Nat} (f : α → β) (v : Vector α n) (i : Fin n) :
    (v.toList.map f)[i.val]? = some (f v[i]) := by
  simp

/-- A lowering is pending only while more lanes work than the target level, and no more work than the effective level (R91, R92). -/
theorem workingLanes_bounds {s : State} (h : RateLaw s) :
    workingLanes s.lanes ≤ s.governor.effective
      ∧ (s.governor.target < s.governor.effective → s.governor.target < workingLanes s.lanes) := by
  obtain ⟨-, -, -, -, -, hworking, hlowering⟩ := h
  exact ⟨hworking, hlowering⟩

/-- Every extent record is counted once, by its state (R56). -/
theorem extentCounts_sum (t : ExtentTable) :
    (extentCounts t).pending + (extentCounts t).active + (extentCounts t).partDone + (extentCounts t).done = t.extents.length := by
  unfold extentCounts
  induction t.extents with
  | nil => rfl
  | cons r es ih =>
    obtain ⟨state, cls⟩ := r
    simp only [List.countP_cons, List.length_cons]
    cases state <;> simp [ExtentRec.isActive, ExtentRec.waits, ExtentRec.isDone] at ih ⊢ <;> omega

theorem writerKind_eq_idle {w : Writer} : writerKind w = .idle ↔ w.state = .idle := by
  unfold writerKind
  cases w.state <;> simp

theorem writerKind_eq_writing {w : Writer} : writerKind w = .writing ↔ ∃ x, w.state = .writing x := by
  unfold writerKind
  cases w.state <;> simp

theorem writerKind_eq_reading {w : Writer} : writerKind w = .reading ↔ ∃ x, w.state = .reading x := by
  unfold writerKind
  cases w.state <;> simp

end Reports

/-- Settles O10: the three reports, row by row, and the order in which their contents stand. -/
theorem queryRateSessionAndChannelsReport : Obligations.QueryRateSessionAndChannelsReport := by
  unfold Obligations.QueryRateSessionAndChannelsReport
  refine ⟨fun tag s h => ?rate, fun _ _ _ _ _ _ _ _ _ => rfl, fun tag s h => ?session, fun _ _ _ _ _ _ _ _ _ => rfl,
    fun tag s h => ?channels, fun _ => rfl⟩
  case rate =>
    exact ⟨workingLanes s.lanes, s.lanes.toList.map laneReport, exec_queryRate h, rfl, by simp,
      getElem?_map_toList laneReport s.lanes, workingLanes_bounds⟩
  case session =>
    exact ⟨extentCounts s.table, writerKind s.writer, exec_querySession h, rfl, rfl, rfl, extentCounts_sum s.table,
      writerKind_eq_idle, writerKind_eq_writing, writerKind_eq_reading⟩
  case channels =>
    exact ⟨s.chans.toList.map channelReport, exec_queryChannels h, by simp, getElem?_map_toList channelReport s.chans⟩

end Sys2Proof.Proofs.Queries

/-! ## IDENTIFY, the query of the plan and the query of the monitors (R31, R172, R184)

These three answers, too, read nothing that `backToHunt` changes. What is left to say is what they hold: IDENTIFY the configuration's
twelve constants, QUERY PLAN the quantities that geometry derives from the active ARRAY group, QUERY MONITORS the entries of a list of
four; and in which order the contents of the two queries stand. -/

namespace Sys2Proof.Proofs.Standing
open Sys2Proof Sys2Proof.Machine
open Sys2Proof.Proofs.Staging (exec_of_passes)

section Answers
variable {tag : Tag} {s : State}

theorem exec_identify (h : Passes tag s) :
    exec (.identify tag (some ())) s
      = .next (handReply (done tag 0x01 (.identify identity s.link.resetCause)) (backToHunt s)) :=
  exec_of_passes (r := .identify (some ())) h rfl (fun _ => nofun) nofun rfl

theorem exec_queryPlan (h : Passes tag s) :
    exec (.queryPlan tag (some ())) s = .next (handReply (done tag 0x07 (planReport s)) (backToHunt s)) :=
  exec_of_passes (r := .queryPlan (some ())) h rfl (fun _ => nofun) nofun rfl

theorem exec_queryMonitors (h : Passes tag s) :
    exec (.queryMonitors tag (some ())) s = .next (handReply (done tag 0x07 (monitorsReport s)) (backToHunt s)) :=
  exec_of_passes (r := .queryMonitors (some ())) h rfl (fun _ => nofun) nofun rfl

end Answers

section Reports

/-- The items of IDENTIFY's table before the reset cause, as R184 gives them. -/
theorem identity_eq : identity = [0x2D7, 0x2410, 1, 16, 4, 384, 32, 256, 256, 4096, 8, 4] := rfl

/-- B, D, C and X stand beside the group they are derived from (section 2.2, R9, R31). -/
theorem activeArray_eq (g : ArrayGroup) :
    activeArray g =
      { group := g, blocks := g.stripKiB / 4, data := (g.members - 1) * (g.stripKiB / 4)
        capacity := g.stripes * ((g.members - 1) * (g.stripKiB / 4)), extents := (g.stripes + g.extentSize - 1) / g.extentSize } := rfl

/-- The fields of an active ARRAY group: its presence, the group, then the derived quantities (R31). -/
theorem activeFields_some (a : ActiveArray) :
    activeFields (some a) = .arrayActive true :: arrayFields a.group
      ++ [.stripBlocks a.blocks, .stripeBlocks a.data, .arrayBlocks a.capacity, .extentCount a.extents] := rfl

theorem activeFields_none : activeFields none = [.arrayActive false] := rfl

/-- The contents of QUERY PLAN: the staged groups and the validity marker, then the active groups (R31). -/
theorem contents_plan (p : PlanReport) :
    contents (.plan p) = arrayFields p.stagedArray ++ [.stagedValid p.stagedValid] ++ policyFields p.stagedPolicy
      ++ p.stagedWindows.toList.flatMap windowFields ++ activeFields p.array ++ policyFields p.policy
      ++ p.windows.toList.flatMap windowFields := rfl

/-- The contents of QUERY MONITORS are the monitors' fields, monitor after monitor (R172). -/
theorem contents_monitors (ms : List Monitor) : contents (.monitors ms) = ms.flatMap monitorFields := rfl

/-- A list of four holds its four entries in their order. -/
theorem toList_of_four {α : Type} (v : Vector α 4) : v.toList = [v[0], v[1], v[2], v[3]] := by
  refine List.ext_getElem (by simp) fun i hi _ => ?_
  have hlt : i < 4 := by simpa using hi
  interval_cases i <;> rfl

end Reports

/-- Settles O5: the three answers, and the order in which the contents of the two queries stand. -/
theorem identifyPlanAndMonitorsReport : Obligations.IdentifyPlanAndMonitorsReport := by
  unfold Obligations.IdentifyPlanAndMonitorsReport
  refine ⟨fun tag s h => ?identify, fun tag s h => ?plan, fun p => ?planContents, fun tag s h => ?monitors,
    fun m => ?monitorContents⟩
  case identify => rw [exec_identify h, identity_eq]
  case plan =>
    rw [exec_queryPlan h, planReport]
    simp only [← activeArray_eq]
  case planContents =>
    rw [contents_plan]
    cases p.array with
    | none => rw [activeFields_none]
    | some a => rw [activeFields_some]
  case monitors => rw [exec_queryMonitors h, monitorsReport, toList_of_four]
  case monitorContents => rw [contents_monitors, List.flatMap_singleton, monitorFields]

end Sys2Proof.Proofs.Standing
